-- ==== Sys2Proof/Word.lean ====
section
/-! DEFINITION. The word types of the command port and of the block's arrays (00_scope.md R9, R13). -/

namespace Sys2Proof

/-- A word of the command port or a `u32` register: 32 bits, bit 0 least significant (R9). -/
abbrev Word := BitVec 32

/-- One byte of a byte-serial transport (20_memory.md R72). -/
abbrev Byte := BitVec 8

/-- A value of the parameter type `NUM` (R7), held as the 32-bit word that encodes it (R10, R13). `num(w)` and
`enc(v)` are therefore the identity, which is what "`num` and `enc` are inverse on words" asks for. Log entry 1. -/
abbrev NUM := BitVec 32

end Sys2Proof
end

