-- ==== Sys2Proof/Config.lean ====
section
/-! DEFINITION. What an implementation fixes (00_scope.md R7) and the free values the spec leaves open
(93_implementation_defined.md Part 1). A constant declared `opaque` has no body: nothing can be proved of
its value, so a claim holds whatever it is. -/

namespace Sys2Proof

/-! ## The implementation parameters (R7)

"Fixed per implementation (not changeable by commands). A model takes each as an argument." The form of `exec` leaves
no place for an argument, so the parameters travel in the state as plain data: a tag says whether a type or a function
is the default or another one, and the other one is a constant without a body. Log entries 1, 2, 6, 26. -/

/-- The operations of 00_scope.md R12 on the words that encode the values of a numeric type. -/
structure NumType where
  /-- the constants `0`, `1`, `2`, `20`, `0.5`, `0.25`, `TWO_PI` -/
  zero : NUM
  one : NUM
  two : NUM
  twenty : NUM
  half : NUM
  quarter : NUM
  twoPi : NUM
  /-- the value nearest to a non-negative integer, to an integer, to `digits / 10^places` with a sign (R100) -/
  ofNat : Nat → NUM
  ofInt : Int → NUM
  ofDecimal : (negative : Bool) → (digits places : Nat) → NUM
  add : NUM → NUM → NUM
  sub : NUM → NUM → NUM
  mul : NUM → NUM → NUM
  div : NUM → NUM → NUM
  neg : NUM → NUM
  lt : NUM → NUM → Bool
  le : NUM → NUM → Bool
  eq : NUM → NUM → Bool
  isFinite : NUM → Bool
  /-- the greatest integer not above a finite value -/
  floor : NUM → Int
  sqrt : NUM → NUM
  /-- `atan2(y, x)` -/
  atan2 : NUM → NUM → NUM
  log10 : NUM → NUM
  pow10 : NUM → NUM
  sin : NUM → NUM
  cos : NUM → NUM
  exp : NUM → NUM
  deriving Inhabited

/-- `a > b` -/
def NumType.gt (N : NumType) (a b : NUM) : Bool := N.lt b a
/-- `a >= b` -/
def NumType.ge (N : NumType) (a b : NUM) : Bool := N.le b a

/-- The parameter `NUM` (R7). -/
inductive NumKind where
  /-- IEEE 754 binary32, the default -/
  | binary32
  /-- another type with the operations of R12: `Config.otherNum` -/
  | other
  deriving DecidableEq, Repr

/-- A function parameter, `Window` or `WaveGen` (R7). -/
inductive Generator where
  /-- the formula the spec gives as the default (42_transform.md R158, 44_wavetable.md R191) -/
  | formula
  /-- another function: `Config.otherWindow`, `Config.otherWaveGen` -/
  | other
  deriving DecidableEq, Repr

/-- The parameters of an implementation, each with its default (R7). `RFFT` and `IRFFT` are the free functions
`Config.rfftBin` and `Config.irfftSample`. -/
structure Params where
  /-- `NUM` -/
  num : NumKind := .binary32
  /-- `WS_MAX`, the largest legal window size -/
  wsMax : Nat := 65536
  /-- `TS_MAX`, the largest legal wavetable size -/
  tsMax : Nat := 65536
  /-- `NOSC_MAX`, the largest legal number of oscillator slots -/
  noscMax : Nat := 256
  /-- `Window` -/
  window : Generator := .formula
  /-- `WaveGen` -/
  waveGen : Generator := .formula
  /-- `ID_VALUE`, the value of the `ID` register -/
  idValue : Word := 0x534D3037#32
  deriving DecidableEq, Repr

namespace Config

/-- The window kinds `Window` defines: 0 `HANN`, 1 `GAUSSIAN` (10_state.md R27, 93 U8: an
implementation with more kinds is another interface version). Log entry 2. -/
def windowKindDefined (kind : Nat) : Bool := kind == 0 || kind == 1

/-- The waveform kinds `WaveGen` defines: 0 `SINE` (44_wavetable.md R191, 93 U8).
Log entry 2. -/
def waveKindDefined (kind : Nat) : Bool := kind == 0

/-- The operations whose result can be a NaN that the spec does not fix (00_scope.md R12, 93 U2). -/
inductive NumOp where
  | add | sub | mul | div | sqrt | atan2
  deriving DecidableEq, Repr

/-- FREE VALUE (93 U2, log entry 3): sign and fraction of the NaN an operation answers on these operands. -/
opaque nanChoice : NumOp → NUM → NUM → Bool × BitVec 23

/-- FREE FUNCTION (00_scope.md R12, 93 U6 and U9, log entry 4): `atan2(y, x)` before the pinned values. -/
opaque atan2Raw : NUM → NUM → NUM
/-- FREE FUNCTION (R12, U6, U9, log entry 4): `log10` before the pinned values. -/
opaque log10Raw : NUM → NUM
/-- FREE FUNCTION (R12, U6, U9, log entry 4): `pow10` before the pinned values. -/
opaque pow10Raw : NUM → NUM
/-- FREE FUNCTION (R12, U6, U9, log entry 4): `sin` before the pinned values and range. -/
opaque sinRaw : NUM → NUM
/-- FREE FUNCTION (R12, U6, U9, log entry 4): `cos` before the pinned values and range. -/
opaque cosRaw : NUM → NUM
/-- FREE FUNCTION (R12, U6, U9, log entry 4): `exp` before the pinned values and range. -/
opaque expRaw : NUM → NUM

/-- FREE FUNCTION (R7, log entry 1): the operations of a `NUM` that is not binary32. -/
opaque otherNum : NumType

/-- FREE FUNCTION (R7, log entry 6): `Window(kind, N, n, gsigma)` where it is not the formula of R158. -/
opaque otherWindow : (kind size n : Nat) → (gsigma : NUM) → NUM

/-- FREE FUNCTION (R7, log entry 6): `WaveGen(kind, T, i)` where it is not the formula of R191. -/
opaque otherWaveGen : (kind t i : Nat) → NUM

/-- FREE FUNCTION (42_transform.md R160, 93 U5 and U6, log entry 7): bin `k` of `RFFT(P, x)`, real and
imaginary part. It depends on the numeric type, `P`, `x` and `k` only. -/
opaque rfftBin : NumKind → Nat → List NUM → Nat → NUM × NUM

/-- FREE FUNCTION (42_transform.md R161, 93 U5 and U6, log entry 7): sample `n` of
`IRFFT(P, specRe, specIm)`. -/
opaque irfftSample : NumKind → Nat → List NUM → List NUM → Nat → NUM

/-- FREE VALUE (42_transform.md R168, 93 U4, log entry 8): sample `n` that `XFM.IFFT` streams when the
spectrum was modified, for the `c`-th such use. -/
opaque freeSample : (c n : Nat) → NUM

end Config

end Sys2Proof
end

