-- ==== Sys2Proof/Syntax.lean ====
section
/-! DEFINITION. The commands of the block: one constructor per row of spec/opcode_table.json
(30_encoding.md R95), with the closed enumerations of register names (10_state.md R26) and selectors
(20_memory.md R70, R71). -/

namespace Sys2Proof

/-- The registers of 10_state.md R26: staged `0x00` to `0x0B`, live `0x10`, `0x11`, status `0x20` to
`0x3D`. A reserved number is no register. -/
inductive Reg where
  -- staged configuration (R27 to R38)
  | cfgWinKind | cfgWinSize | cfgHopFactor | cfgSrate | cfgPad | cfgWaveKind
  | cfgTabSize | cfgMaxTrk | cfgGsigma | cfgThrK | cfgPkThr | cfgEps
  -- live control (R39, R40)
  | mixCtl | mixGain
  -- status (R41 to R46), in number order
  | status | errFirst | errLast | errCnt
  | winSize | hopSize | padSize | numBins
  | appetite | count | inW | inR | outW | outR
  | srate | binWidth | maxAmp | normFactor | denormFactor
  | pkCount | pkCap | nosc | tabSize | wtKind | nActive | id
  | winKind | hopFactor | pad | eps
  deriving DecidableEq, Repr

/-- The array selectors of `GETBIN` and `SETBIN` (20_memory.md R70). -/
inductive BinArray where
  | amp | mag | phs | frq | mthr | pthr | win
  deriving DecidableEq, Repr

/-- The field selectors of `GETOSC` (20_memory.md R71). -/
inductive OscField where
  | ph | amp | freq | tAmp | tFreq | tPhase | steps | active | ampStep | freqStep
  deriving DecidableEq, Repr

/-- The field selectors of `GETPK` (20_memory.md R71). -/
inductive PkField where
  | bin | off | mag | amp | frq | phs
  deriving DecidableEq, Repr

/-- A decoded command. Operand words are typed by the opcode (30_encoding.md R92, R95); an index is the
20-bit `IDX` field, judged at execution (R98). -/
inductive Instr where
  | nop
  | init
  | rdreg (r : Reg)
  | wrreg (r : Reg) (value : Word)
  | wrs (sample : NUM)
  | rdo
  | xfmFft
  | xfmIfft
  | getbin (sel : BinArray) (idx : BitVec 20)
  | setbin (sel : BinArray) (idx : BitVec 20) (value : NUM)
  | wtgen (force : Bool) (kind : BitVec 8)
  | getwt (idx : BitVec 20)
  | ostart (slot : BitVec 20) (amp freq phase : NUM)
  | ostop (slot : BitVec 20)
  | oupd (slot : BitVec 20) (targetAmp targetFreq targetPhase : NUM) (numSteps : Word)
  | onext (slot : BitVec 20)
  | oact (enable : Bool) (slot : BitVec 20)
  | getosc (field : OscField) (slot : BitVec 20)
  | peaks
  | getpk (field : PkField) (idx : BitVec 20)
  | rds
  deriving DecidableEq, Repr

end Sys2Proof
end

