-- ==== Sys2Proof/WellFormed.lean ====
section
/-! DEFINITION. When a command is one the encoding admits (30_encoding.md R98). The closed enumerations of
Syntax rule out reserved selectors and register numbers; two operand checks remain. -/

namespace Sys2Proof

/-- A value `WRREG MIXCTL` accepts: `NORMMODE` (bits 1:0) is not 3 and bits 31:3 are zero
(10_state.md R39). -/
def mixCtlLegal (v : Word) : Bool := v.toNat < 8 && v.toNat % 4 != 3

/-- The command is no illegal encoding (30_encoding.md R98): a `WRREG MIXCTL` value is legal (R39) and a
`WTGEN` kind is one that `WaveGen` defines (44_wavetable.md R191). -/
def Instr.wellFormed : Instr → Bool
  | .wrreg .mixCtl v => mixCtlLegal v
  | .wtgen _ kind => Config.waveKindDefined kind.toNat
  | _ => true

end Sys2Proof
end

