-- ==== Sys2Proof/Decode.lean ====
section
/-! DEFINITION. Decoding and encoding of command packets (30_encoding.md R90 to R98), the byte-serial
transport (20_memory.md R72) and the reading of an opcode-table word. Decoding reads no block state (R94). -/

namespace Sys2Proof

/-! ## Header fields (R91, R92) -/

/-- `OPC = hdr[31:24]`. -/
def hdrOpc (h : Word) : BitVec 8 := h.extractLsb' 24 8
/-- `SEL = hdr[23:20]`. -/
def hdrSel (h : Word) : BitVec 4 := h.extractLsb' 20 4
/-- `IDX = hdr[19:0]`. -/
def hdrIdx (h : Word) : BitVec 20 := h.extractLsb' 0 20

/-- The header word with these fields (R91). -/
def mkHdr (opc : BitVec 8) (sel : BitVec 4) (idx : BitVec 20) : Word := opc ++ (sel ++ idx)

/-! ## Opcode map (R95) -/

/-- The assigned values of `OPC`. `XFM` is one opcode whose `SEL` chooses the direction. -/
inductive Opcode where
  | nop | init | rdreg | wrreg | wrs | rdo | xfm | getbin | setbin | wtgen | getwt
  | ostart | ostop | oupd | onext | oact | getosc | peaks | getpk | rds
  deriving DecidableEq, Repr

/-- Every assigned opcode. -/
def Opcode.all : List Opcode :=
  [.nop, .init, .rdreg, .wrreg, .wrs, .rdo, .xfm, .getbin, .setbin, .wtgen, .getwt,
   .ostart, .ostop, .oupd, .onext, .oact, .getosc, .peaks, .getpk, .rds]

/-- The `OPC` byte of an opcode (R95). -/
def Opcode.code : Opcode → BitVec 8
  | .nop => 0x00 | .init => 0x01 | .rdreg => 0x02 | .wrreg => 0x03
  | .wrs => 0x10 | .rdo => 0x11 | .xfm => 0x20
  | .getbin => 0x30 | .setbin => 0x31 | .wtgen => 0x40 | .getwt => 0x41
  | .ostart => 0x50 | .ostop => 0x51 | .oupd => 0x52 | .onext => 0x53 | .oact => 0x54 | .getosc => 0x55
  | .peaks => 0x60 | .getpk => 0x61 | .rds => 0x70

/-- The opcode of an `OPC` byte; `none` where the byte is unassigned (R98). -/
def Opcode.ofCode (c : BitVec 8) : Option Opcode := Opcode.all.find? fun o => o.code == c

/-- `NARG`, the number of operand words (R95): a function of the opcode alone (R93). -/
def Opcode.nargs : Opcode → Nat
  | .wrreg | .wrs | .setbin => 1
  | .ostart => 3
  | .oupd => 4
  | _ => 0

/-! ## Register numbers and selectors -/

/-- Every register (10_state.md R26). -/
def Reg.all : List Reg :=
  [.cfgWinKind, .cfgWinSize, .cfgHopFactor, .cfgSrate, .cfgPad, .cfgWaveKind,
   .cfgTabSize, .cfgMaxTrk, .cfgGsigma, .cfgThrK, .cfgPkThr, .cfgEps,
   .mixCtl, .mixGain,
   .status, .errFirst, .errLast, .errCnt, .winSize, .hopSize, .padSize, .numBins,
   .appetite, .count, .inW, .inR, .outW, .outR, .srate, .binWidth,
   .maxAmp, .normFactor, .denormFactor, .pkCount, .pkCap, .nosc, .tabSize, .wtKind, .nActive, .id,
   .winKind, .hopFactor, .pad, .eps]

/-- The register's number (10_state.md R27 to R46). -/
def Reg.num : Reg → BitVec 20
  | .cfgWinKind => 0x00 | .cfgWinSize => 0x01 | .cfgHopFactor => 0x02 | .cfgSrate => 0x03
  | .cfgPad => 0x04 | .cfgWaveKind => 0x05 | .cfgTabSize => 0x06 | .cfgMaxTrk => 0x07
  | .cfgGsigma => 0x08 | .cfgThrK => 0x09 | .cfgPkThr => 0x0A | .cfgEps => 0x0B
  | .mixCtl => 0x10 | .mixGain => 0x11
  | .status => 0x20 | .errFirst => 0x21 | .errLast => 0x22 | .errCnt => 0x23
  | .winSize => 0x24 | .hopSize => 0x25 | .padSize => 0x26 | .numBins => 0x27
  | .appetite => 0x28 | .count => 0x29 | .inW => 0x2A | .inR => 0x2B | .outW => 0x2C | .outR => 0x2D
  | .srate => 0x2E | .binWidth => 0x2F
  | .maxAmp => 0x30 | .normFactor => 0x31 | .denormFactor => 0x32
  | .pkCount => 0x33 | .pkCap => 0x34 | .nosc => 0x35 | .tabSize => 0x36 | .wtKind => 0x37
  | .nActive => 0x38 | .id => 0x39
  | .winKind => 0x3A | .hopFactor => 0x3B | .pad => 0x3C | .eps => 0x3D

/-- The register of a number; `none` where the number is reserved. -/
def Reg.ofNum (n : BitVec 20) : Option Reg := Reg.all.find? fun r => r.num == n

/-- Every array selector. -/
def BinArray.all : List BinArray := [.amp, .mag, .phs, .frq, .mthr, .pthr, .win]

/-- The `SEL` value of an array (20_memory.md R70). -/
def BinArray.code : BinArray → BitVec 4
  | .amp => 0 | .mag => 1 | .phs => 2 | .frq => 3 | .mthr => 4 | .pthr => 5 | .win => 6

/-- The array of a `SEL` value; `none` for 7 to 15. -/
def BinArray.ofCode (c : BitVec 4) : Option BinArray := BinArray.all.find? fun a => a.code == c

/-- Every oscillator field selector. -/
def OscField.all : List OscField :=
  [.ph, .amp, .freq, .tAmp, .tFreq, .tPhase, .steps, .active, .ampStep, .freqStep]

/-- The `SEL` value of an oscillator field (20_memory.md R71). -/
def OscField.code : OscField → BitVec 4
  | .ph => 0 | .amp => 1 | .freq => 2 | .tAmp => 3 | .tFreq => 4 | .tPhase => 5
  | .steps => 6 | .active => 7 | .ampStep => 8 | .freqStep => 9

/-- The oscillator field of a `SEL` value; `none` for 10 to 15. -/
def OscField.ofCode (c : BitVec 4) : Option OscField := OscField.all.find? fun f => f.code == c

/-- Every peak field selector. -/
def PkField.all : List PkField := [.bin, .off, .mag, .amp, .frq, .phs]

/-- The `SEL` value of a peak field (20_memory.md R71). -/
def PkField.code : PkField → BitVec 4
  | .bin => 0 | .off => 1 | .mag => 2 | .amp => 3 | .frq => 4 | .phs => 5

/-- The peak field of a `SEL` value; `none` for 6 to 15. -/
def PkField.ofCode (c : BitVec 4) : Option PkField := PkField.all.find? fun f => f.code == c

/-! ## Decoding -/

/-- Why a packet is an illegal encoding (R98); each is answered with `E_ILLEGAL`. -/
inductive DecodeError where
  /-- the packet has no word -/
  | emptyPacket
  /-- `OPC` is not in R95 -/
  | unassignedOpcode
  /-- the packet length is not `1 + NARG(OPC)` -/
  | wrongLength
  /-- a field or sub-field that must be zero is not -/
  | nonZeroField
  /-- a reserved selector value -/
  | reservedSelector
  /-- a reserved register number -/
  | reservedRegister
  /-- `WRREG MIXCTL` with a reserved value -/
  | reservedMixCtl
  /-- `WTGEN` with a kind `WaveGen` does not define -/
  | undefinedKind
  deriving DecidableEq, Repr

/-- `ok i` if the fields that must be zero are (R91). -/
def whenZero (zero : Bool) (i : Instr) : Except DecodeError Instr :=
  if zero then .ok i else .error .nonZeroField

/-- The command of a packet with no operand word; any other length is illegal (R98). -/
def noOperand (args : List Word) (r : Except DecodeError Instr) : Except DecodeError Instr :=
  match args with
  | [] => r
  | _ => .error .wrongLength

/-- The command of a packet with one operand word. -/
def oneOperand (args : List Word) (f : Word → Except DecodeError Instr) : Except DecodeError Instr :=
  match args with
  | [v] => f v
  | _ => .error .wrongLength

/-- The command of a packet with three operand words. -/
def threeOperands (args : List Word) (f : Word → Word → Word → Except DecodeError Instr) :
    Except DecodeError Instr :=
  match args with
  | [u, v, w] => f u v w
  | _ => .error .wrongLength

/-- The command of a packet with four operand words. -/
def fourOperands (args : List Word) (f : Word → Word → Word → Word → Except DecodeError Instr) :
    Except DecodeError Instr :=
  match args with
  | [u, v, w, x] => f u v w x
  | _ => .error .wrongLength

/-- The command of a selector or register number, or the reason it has none. -/
def whenKnown {α : Type} (known : Option α) (e : DecodeError) (f : α → Except DecodeError Instr) :
    Except DecodeError Instr :=
  match known with
  | some a => f a
  | none => .error e

/-- `WRREG` of a register (R98, 10_state.md R39). -/
def decodeWrreg (sel : BitVec 4) (v : Word) (r : Reg) : Except DecodeError Instr :=
  if r = .mixCtl ∧ mixCtlLegal v = false then .error .reservedMixCtl else whenZero (sel == 0) (.wrreg r v)

/-- `XFM`: the selector is the direction (R95). -/
def decodeXfm (sel : BitVec 4) (idx : BitVec 20) : Except DecodeError Instr :=
  if sel = 0 then whenZero (idx == 0) .xfmFft
  else if sel = 1 then whenZero (idx == 0) .xfmIfft
  else .error .reservedSelector

/-- `WTGEN`: force in `SEL[0]`, kind in `IDX[7:0]` (44_wavetable.md R192). -/
def decodeWtgen (sel : BitVec 4) (idx : BitVec 20) : Except DecodeError Instr :=
  if Config.waveKindDefined (idx.extractLsb' 0 8).toNat then
    whenZero (sel.extractLsb' 1 3 == 0 && idx.extractLsb' 8 12 == 0)
      (.wtgen (sel.getLsbD 0) (idx.extractLsb' 0 8))
  else .error .undefinedKind

/-- The command of an opcode, its fields and its operand words (R95, R98). -/
def decodeFields (op : Opcode) (sel : BitVec 4) (idx : BitVec 20) (args : List Word) :
    Except DecodeError Instr :=
  match op with
  | .nop => noOperand args (whenZero (sel == 0 && idx == 0) .nop)
  | .init => noOperand args (whenZero (sel == 0 && idx == 0) .init)
  | .rdreg =>
    noOperand args (whenKnown (Reg.ofNum idx) .reservedRegister fun r => whenZero (sel == 0) (.rdreg r))
  | .wrreg => oneOperand args fun v => whenKnown (Reg.ofNum idx) .reservedRegister (decodeWrreg sel v)
  | .wrs => oneOperand args fun x => whenZero (sel == 0 && idx == 0) (.wrs x)
  | .rdo => noOperand args (whenZero (sel == 0 && idx == 0) .rdo)
  | .xfm => noOperand args (decodeXfm sel idx)
  | .getbin => noOperand args (whenKnown (BinArray.ofCode sel) .reservedSelector fun a => .ok (.getbin a idx))
  | .setbin =>
    oneOperand args fun v => whenKnown (BinArray.ofCode sel) .reservedSelector fun a => .ok (.setbin a idx v)
  | .wtgen => noOperand args (decodeWtgen sel idx)
  | .getwt => noOperand args (whenZero (sel == 0) (.getwt idx))
  | .ostart => threeOperands args fun a f p => whenZero (sel == 0) (.ostart idx a f p)
  | .ostop => noOperand args (whenZero (sel == 0) (.ostop idx))
  | .oupd => fourOperands args fun a f p n => whenZero (sel == 0) (.oupd idx a f p n)
  | .onext => noOperand args (whenZero (sel == 0) (.onext idx))
  | .oact => noOperand args (whenZero (sel.extractLsb' 1 3 == 0) (.oact (sel.getLsbD 0) idx))
  | .getosc => noOperand args (whenKnown (OscField.ofCode sel) .reservedSelector fun f => .ok (.getosc f idx))
  | .peaks => noOperand args (whenZero (sel == 0 && idx == 0) .peaks)
  | .getpk => noOperand args (whenKnown (PkField.ofCode sel) .reservedSelector fun f => .ok (.getpk f idx))
  | .rds => noOperand args (whenZero (sel == 0 && idx == 0) .rds)

/-- Decode a packet: total, one command or one reason it is illegal (R94). -/
def decode : List Word → Except DecodeError Instr
  | [] => .error .emptyPacket
  | h :: args =>
    match Opcode.ofCode (hdrOpc h) with
    | none => .error .unassignedOpcode
    | some op => decodeFields op (hdrSel h) (hdrIdx h) args

/-! ## Encoding -/

/-- The packet with this opcode, fields and operand words. -/
def packet (op : Opcode) (sel : BitVec 4) (idx : BitVec 20) (args : List Word) : List Word :=
  mkHdr op.code sel idx :: args

/-- A one-bit selector (`WTGEN` force, `OACT` enable) in `SEL[0]`. -/
def boolSel (b : Bool) : BitVec 4 := if b then 1 else 0

/-- The packet of a command (R90, R95). -/
def encode : Instr → List Word
  | .nop => packet .nop 0 0 []
  | .init => packet .init 0 0 []
  | .rdreg r => packet .rdreg 0 r.num []
  | .wrreg r v => packet .wrreg 0 r.num [v]
  | .wrs x => packet .wrs 0 0 [x]
  | .rdo => packet .rdo 0 0 []
  | .xfmFft => packet .xfm 0 0 []
  | .xfmIfft => packet .xfm 1 0 []
  | .getbin a i => packet .getbin a.code i []
  | .setbin a i v => packet .setbin a.code i [v]
  | .wtgen force kind => packet .wtgen (boolSel force) (kind.setWidth 20) []
  | .getwt i => packet .getwt 0 i []
  | .ostart j a f p => packet .ostart 0 j [a, f, p]
  | .ostop j => packet .ostop 0 j []
  | .oupd j a f p n => packet .oupd 0 j [a, f, p, n]
  | .onext j => packet .onext 0 j []
  | .oact on j => packet .oact (boolSel on) j []
  | .getosc f j => packet .getosc f.code j []
  | .peaks => packet .peaks 0 0 []
  | .getpk f k => packet .getpk f.code k []
  | .rds => packet .rds 0 0 []

/-! ## The byte-serial transport (20_memory.md R72) -/

/-- A word as four bytes, least significant first. -/
def wordBytes (w : Word) : List Byte :=
  [w.extractLsb' 0 8, w.extractLsb' 8 8, w.extractLsb' 16 8, w.extractLsb' 24 8]

/-- A packet as bytes: header first, each word least significant byte first. -/
def packetBytes (ws : List Word) : List Byte := ws.flatMap wordBytes

/-- The words of a byte stream; `none` where the number of bytes is no multiple of four. -/
def bytesToWords : List Byte → Option (List Word)
  | [] => some []
  | b0 :: b1 :: b2 :: b3 :: rest => (bytesToWords rest).map fun ws => (b3 ++ (b2 ++ (b1 ++ b0))) :: ws
  | _ => none

/-- Decode a packet that came over a byte-serial transport. Bytes that are no whole number of words have
no legal packet length. -/
def decodeBytes (bs : List Byte) : Except DecodeError Instr :=
  match bytesToWords bs with
  | some ws => decode ws
  | none => .error .wrongLength

/-! ## Opcode-table words -/

/-- The packet of an opcode-table word: bit 0 of `w` is the least significant bit of the header, a later
word's bits count on from it, and every bit from `nbits` up is 0. The header's opcode fixes how many
operand words follow (R93). -/
def tableWords (nbits w : Nat) : List Word :=
  let bits := w % 2 ^ nbits
  let h : Word := BitVec.ofNat 32 bits
  let n := ((Opcode.ofCode (hdrOpc h)).map Opcode.nargs).getD 0
  h :: (List.range n).map fun k => BitVec.ofNat 32 (bits / 2 ^ (32 * (k + 1)))

/-- The command the decoder reads from an opcode-table word; `none` where it refuses it. -/
def decodeTableWord (nbits w : Nat) : Option Instr :=
  match decode (tableWords nbits w) with
  | .ok i => some i
  | .error _ => none

end Sys2Proof
end

