-- ==== Sys2Proof/Machine/Numeric.lean ====
section
/-! DEFINITION. The default numeric type, IEEE 754 binary32, and its operations (00_scope.md R12, R13): the
four arithmetic operations and `sqrt` computed exactly and rounded once to nearest even, comparisons false
on a NaN, infinities on overflow and division by zero, subnormals kept. The library functions are functions
without a body (Config), pinned where 93_implementation_defined.md U9 or a rule pins them. At the end the numeric type
a block computes in, which is a parameter (R7).

A finite value is an integer number of quanta, one quantum being 2^-149, the least positive binary32. -/

namespace Sys2Proof.F32

/-! ## Encoding (R13) -/

/-- Bit 31, the sign. -/
def sign (x : NUM) : Bool := x.getLsbD 31
/-- Bits 30:23, the biased exponent. -/
def expo (x : NUM) : Nat := x.toNat / 2 ^ 23 % 2 ^ 8
/-- Bits 22:0, the fraction. -/
def frac (x : NUM) : Nat := x.toNat % 2 ^ 23

/-- A NaN: exponent all ones, fraction not zero. -/
def isNaN (x : NUM) : Bool := expo x == 255 && frac x != 0
/-- An infinity of either sign. -/
def isInf (x : NUM) : Bool := expo x == 255 && frac x == 0
/-- `isFinite(v)` of R12. -/
def isFinite (x : NUM) : Bool := expo x != 255
/-- A zero of either sign. -/
def isZero (x : NUM) : Bool := expo x == 0 && frac x == 0

/-- How many quanta are in 1.0. -/
def quantaPerOne : Nat := 2 ^ 149

/-- The magnitude in quanta. An infinity gets 2^277, above every finite magnitude. -/
def quanta (x : NUM) : Nat :=
  if expo x = 0 then frac x else (2 ^ 23 + frac x) * 2 ^ (expo x - 1)

/-- The value in quanta, with its sign. -/
def scaled (x : NUM) : Int := if sign x then -(quanta x : Int) else (quanta x : Int)

/-- The word with this sign and these magnitude bits (30:0). -/
def pack (neg : Bool) (bits : Nat) : NUM := BitVec.ofNat 32 (if neg then bits + 2 ^ 31 else bits)

/-- The magnitude bits of the infinities. -/
def infBits : Nat := 0x7F800000

/-- The NaN an operation answers on these operands: any NaN, no one knows which (93 U2, log entry 3). -/
def nan (op : Config.NumOp) (a b : NUM) : NUM :=
  let c := Config.nanChoice op a b
  pack c.1 (infBits + max 1 c.2.toNat)

/-! ## Rounding -/

/-- The integer nearest to `num / den`, ties to even. -/
def roundDiv (num den : Nat) : Nat :=
  let q := num / den
  let r := num % den
  if 2 * r > den || (2 * r == den && q % 2 == 1) then q + 1 else q

/-- The magnitude bits of the binary32 nearest to `num / den` quanta, ties to even, infinity on overflow.
With `e` binary places dropped, `e * 2^23 + q` is the encoding of `q * 2^e` quanta, a carry out of the
fraction included. -/
def roundQuanta (num den : Nat) : Nat :=
  let e := (num / den).log2 - 23
  min (e * 2 ^ 23 + roundDiv num (den * 2 ^ e)) infBits

/-! ## Constants -/

/-- `+0` -/
def zero : NUM := 0x00000000#32
/-- `1` -/
def one : NUM := 0x3F800000#32
/-- `2` -/
def two : NUM := 0x40000000#32
/-- `20` -/
def twenty : NUM := 0x41A00000#32
/-- `0.5` -/
def half : NUM := 0x3F000000#32
/-- `0.25` -/
def quarter : NUM := 0x3E800000#32
/-- `TWO_PI`: the binary32 nearest to the mathematical constant. DEDUCED, log entry 5. -/
def twoPi : NUM := 0x40C90FDB#32
/-- `+infinity` -/
def inf : NUM := 0x7F800000#32

/-! ## Arithmetic (R12) -/

/-- Unary minus: the sign bit flipped. -/
def neg (x : NUM) : NUM := x ^^^ 0x80000000#32

/-- The sum of two values, a NaN answered under the name `op`. An exact zero sum is `+0` unless both
operands are `-0`. -/
def sum (op : Config.NumOp) (a b : NUM) : NUM :=
  if isNaN a || isNaN b then nan op a b
  else if isInf a then (if isInf b && sign a != sign b then nan op a b else a)
  else if isInf b then b
  else
    let z := scaled a + scaled b
    if z = 0 then pack (sign a && sign b) 0
    else pack (decide (z < 0)) (roundQuanta z.natAbs 1)

/-- `a + b` -/
def add (a b : NUM) : NUM := sum .add a b

/-- `a - b` -/
def sub (a b : NUM) : NUM := sum .sub a (neg b)

/-- `a * b` -/
def mul (a b : NUM) : NUM :=
  let s := sign a != sign b
  if isNaN a || isNaN b then nan .mul a b
  else if isInf a || isInf b then (if isZero a || isZero b then nan .mul a b else pack s infBits)
  else pack s (roundQuanta (quanta a * quanta b) quantaPerOne)

/-- `a / b` -/
def div (a b : NUM) : NUM :=
  let s := sign a != sign b
  if isNaN a || isNaN b then nan .div a b
  else if isInf a then (if isInf b then nan .div a b else pack s infBits)
  else if isInf b then pack s 0
  else if isZero b then (if isZero a then nan .div a b else pack s infBits)
  else pack s (roundQuanta (quanta a * quantaPerOne) (quanta b))

/-- The integer square root by binary digits: `acc` plus the best choice of the low `k` digits. -/
def isqrtDigits (n : Nat) : Nat → Nat → Nat
  | 0, acc => acc
  | k + 1, acc => if (acc + 2 ^ k) * (acc + 2 ^ k) ≤ n then isqrtDigits n k (acc + 2 ^ k) else isqrtDigits n k acc

/-- `floor(sqrt n)` for `n < 2^428`, which covers every finite binary32 (`sqrt`). -/
def isqrt (n : Nat) : Nat := isqrtDigits n 214 0

/-- `sqrt(v)`, correctly rounded. The exact root of `q` quanta is `sqrt(q * 2^149)` quanta; it is never a
rounding tie, so half a unit stands for the part past the integer root. -/
def sqrt (x : NUM) : NUM :=
  if isNaN x then nan .sqrt x x
  else if isZero x then x
  else if sign x then nan .sqrt x x
  else if isInf x then x
  else
    let n := quanta x * quantaPerOne
    let s := isqrt n
    pack false (roundQuanta (if s * s = n then 2 * s else 2 * s + 1) 2)

/-! ## Comparisons: false on a NaN (R12) -/

/-- `a < b` -/
def lt (a b : NUM) : Bool := !isNaN a && !isNaN b && decide (scaled a < scaled b)
/-- `a <= b` -/
def le (a b : NUM) : Bool := !isNaN a && !isNaN b && decide (scaled a ≤ scaled b)
/-- `a > b` -/
def gt (a b : NUM) : Bool := lt b a
/-- `a >= b` -/
def ge (a b : NUM) : Bool := le b a
/-- `a == b` -/
def eq (a b : NUM) : Bool := !isNaN a && !isNaN b && decide (scaled a = scaled b)

/-! ## Integers (R12) -/

/-- `ofInt(z)`, the binary32 nearest to the integer. -/
def ofInt (z : Int) : NUM := pack (decide (z < 0)) (roundQuanta (z.natAbs * quantaPerOne) 1)

/-- `ofNat(n)`, the binary32 nearest to the non-negative integer. -/
def ofNat (n : Nat) : NUM := ofInt n

/-- `floor(v)`, the greatest integer not above a finite `v`. -/
def floor (x : NUM) : Int := scaled x / (quantaPerOne : Int)

/-- The binary32 nearest to the decimal literal `digits / 10^places` (30_encoding.md R100). -/
def ofDecimal (negative : Bool) (digits places : Nat) : NUM :=
  pack negative (roundQuanta (digits * quantaPerOne) (10 ^ places))

/-! ## Library functions (R12, 93 U6 and U9, log entry 4)

Each takes the free function's answer where U9 leaves it free. Where the free function breaks a property U9
demands of every implementation, a value that has the property stands in; no implementation is affected,
because every one has the property. -/

/-- `r` if it is as an implementation's answer must be, else `d`. -/
def admitted (ok : Bool) (r d : NUM) : NUM := if ok then r else d

/-- `|r| <= bound`. -/
def within (bound r : NUM) : Bool := le r bound && le (neg bound) r

/-- `atan2(y, x)`: a NaN on a NaN and 0 on two zeros (42_transform.md R163), `+0` for `y = +0`, `x > 0`
(U9 c), finite and at most 4 in magnitude for finite operands (U9 c, loosened: log entry 4). -/
def atan2 (y x : NUM) : NUM :=
  if isNaN y || isNaN x then nan .atan2 y x
  else if isZero y && isZero x then zero
  else if y = zero ∧ lt zero x = true then zero
  else
    let r := Config.atan2Raw y x
    admitted (!(isFinite y && isFinite x) || within 0x40800000#32 r) r zero

/-- `log10(v)`: `log10(1) = +0` (U9 d), `log10(+infinity) = +infinity` (10_state.md R54). -/
def log10 (v : NUM) : NUM := if v = one then zero else if v = inf then inf else Config.log10Raw v

/-- `pow10(v)`, ten to the power `v`: `pow10(+0) = 1` (U9 d). -/
def pow10 (v : NUM) : NUM := if v = zero then one else Config.pow10Raw v

/-- `sin(v)`: `sin(+0) = +0`, magnitude at most 1 for a finite operand (U9 e). -/
def sin (v : NUM) : NUM :=
  if v = zero then zero else admitted (!isFinite v || within one (Config.sinRaw v)) (Config.sinRaw v) zero

/-- `cos(v)`: `cos(+0) = 1`, magnitude at most 1 for a finite operand (U9 e). -/
def cos (v : NUM) : NUM :=
  if v = zero then one else admitted (!isFinite v || within one (Config.cosRaw v)) (Config.cosRaw v) zero

/-- `exp(v)`: `exp(+0) = 1`, in `[0, 1]` for `v <= 0` (U9 f). -/
def exp (v : NUM) : NUM :=
  if v = zero then one
  else admitted (!le v zero || (le zero (Config.expRaw v) && le (Config.expRaw v) one)) (Config.expRaw v) zero

/-- IEEE 754 binary32 as a numeric type, the default of R7. -/
def type : NumType :=
  { zero := zero, one := one, two := two, twenty := twenty, half := half, quarter := quarter, twoPi := twoPi
    ofNat := ofNat, ofInt := ofInt, ofDecimal := ofDecimal
    add := add, sub := sub, mul := mul, div := div, neg := neg, lt := lt, le := le, eq := eq
    isFinite := isFinite, floor := floor, sqrt := sqrt, atan2 := atan2, log10 := log10, pow10 := pow10
    sin := sin, cos := cos, exp := exp }

end Sys2Proof.F32

namespace Sys2Proof

/-- The operations of the numeric type an implementation computes in (R7, log entry 1). -/
def NumKind.ops : NumKind → NumType
  | .binary32 => F32.type
  | .other => Config.otherNum

end Sys2Proof
end

