-- ==== Sys2Proof/Machine/State.lean ====
section
/-! DEFINITION. The state of the block as plain data (10_state.md R20 to R61), and its reset (R61, R310). -/

namespace Sys2Proof.Machine

/-- `MODE` (R22): the encoding 3 never occurs. -/
inductive Mode where
  /-- no successful `INIT` since reset or since the last failed `INIT` -/
  | unconf
  /-- the next transform the cadence allows is a forward one -/
  | waveform
  /-- a forward transform has been done; the next is an inverse one -/
  | spectrum
  deriving DecidableEq, Repr

/-- The legal values of `MIXCTL.NORMMODE` (R39); 3 is reserved and never held. -/
inductive NormMode where
  | none | count | sqrtCount
  deriving DecidableEq, Repr

/-- The status codes of 60_exceptions.md R281. -/
inductive Status where
  /-- 0: the command executed -/
  | ok
  /-- 1: illegal encoding (reported) -/
  | illegal
  /-- 2: a command that needs a configuration while `UNCONF` (reported) -/
  | notInit
  /-- 3: `INIT` found an illegal staged configuration (leaves `UNCONF`) -/
  | config
  /-- 4: a transform in the wrong mode (halting) -/
  | state
  /-- 5: an element index outside its array (reported) -/
  | index
  /-- 6: a frequency operand not finite or outside `[0, nyquist]` (halting) -/
  | freq
  /-- 7: a command other than `NOP`, `RDREG`, `INIT` while `HALT = 1` (reported) -/
  | halted
  /-- 8: a write to something read-only (reported) -/
  | rdonly
  /-- 9: an amplitude or phase operand not finite (halting) -/
  | value
  deriving DecidableEq, Repr

/-- A response packet: status word and result word (30_encoding.md R96). -/
structure Response where
  status : Word
  result : Word
  deriving DecidableEq, Repr

/-- What the host side can put on the command port (R90, R310; log entries 9 and 10). -/
inductive PortEvent where
  /-- a command packet, delimited by the transport -/
  | packet (words : List Word)
  /-- the reset input, asserted between two commands -/
  | reset
  deriving DecidableEq, Repr

/-- The staged configuration registers `0x00` to `0x0B` (R27 to R38). -/
structure Staged where
  winKind : Word
  winSize : Word
  hopFactor : Word
  srate : NUM
  pad : Word
  waveKind : Word
  tabSize : Word
  maxTrk : Word
  gsigma : NUM
  thrK : NUM
  pkThr : NUM
  eps : NUM
  deriving DecidableEq, Repr

/-- The active configuration that `INIT` latched (R24). -/
structure Active where
  windowKind : Word
  /-- `N` -/
  windowSize : Word
  hopFactor : Word
  /-- `fs` -/
  sampleRate : NUM
  padFlag : Bool
  waveKind : Word
  /-- `T` -/
  tableSize : Word
  /-- `M` -/
  maxTracks : Word
  gsigma : NUM
  thrK : NUM
  pkThr : NUM
  eps : NUM
  deriving DecidableEq, Repr

/-- A ring buffer with independent cursors, no fill count and no full or empty flag (R48, R49, R140).
Its capacity is the length of `buf`. -/
structure Ring where
  buf : List NUM
  /-- write cursor -/
  w : Nat
  /-- read cursor -/
  r : Nat
  deriving DecidableEq, Repr

/-- A detected peak (R56, 46_peak_detector.md R228). -/
structure Peak where
  bin : Word
  off : NUM
  mag : NUM
  amp : NUM
  frq : NUM
  phs : NUM
  deriving DecidableEq, Repr

/-- An oscillator slot (R58). -/
structure Osc where
  /-- phase accumulator in table-index units -/
  ph : NUM
  amp : NUM
  freq : NUM
  tAmp : NUM
  tFreq : NUM
  tPhase : NUM
  ampStep : NUM
  freqStep : NUM
  stepsLeft : Word
  active : Bool
  deriving DecidableEq, Repr

/-- The state of the block and of its command port, with the parameters the implementation fixes. -/
structure State where
  /-- the implementation parameters (R7): no command and no reset changes them (model's own field, log entry 26) -/
  params : Params
  /-- events on the command port not taken yet, first first (model's own field, log entry 9) -/
  port : List PortEvent
  /-- the response the last step put on the port (model's own field, log entry 9) -/
  response : Option Response
  /-- `MODE` (R22) -/
  mode : Mode
  /-- `HALT` (R23, R283) -/
  halt : Bool
  /-- `FRDY` (R23, R142) -/
  frdy : Bool
  /-- `SPECDIRTY` (R23, R183) -/
  specDirty : Bool
  /-- `WTVALID` (R23, R192) -/
  wtValid : Bool
  /-- the staged registers (R27 to R38) -/
  staged : Staged
  /-- `MIXCTL.NORMMODE` (R39, log entry 15) -/
  normMode : NormMode
  /-- `MIXCTL.DENORM` (R39, log entry 15) -/
  denorm : Bool
  /-- `MIXGAIN` (R40) -/
  mixGain : NUM
  /-- `ERRFIRST` (R42) -/
  errFirst : Word
  /-- `ERRLAST` (R42) -/
  errLast : Word
  /-- `ERRCNT` (R42) -/
  errCnt : Word
  /-- the active configuration (R24), void while `UNCONF` -/
  act : Active
  /-- `appetite` (R50) -/
  appetite : Word
  /-- `count` (R50) -/
  count : Word
  /-- `inRing`, `in_w`, `in_r` (R48) -/
  inRing : Ring
  /-- `outRing`, `out_w`, `out_r` (R49) -/
  outRing : Ring
  /-- the window table (R51) -/
  win : List NUM
  /-- real parts of the complex spectrum (R52) -/
  specRe : List NUM
  /-- imaginary parts of the complex spectrum (R52) -/
  specIm : List NUM
  /-- linear amplitude per bin (R53) -/
  amp : List NUM
  /-- decibel magnitude per bin (R53) -/
  mag : List NUM
  /-- phase per bin in turns (R53) -/
  phs : List NUM
  /-- frequency per bin in hertz (R53) -/
  frq : List NUM
  /-- magnitude thresholds (R54) -/
  mthr : List NUM
  /-- peak significance thresholds (R54) -/
  pthr : List NUM
  /-- `maxAmp` (R55) -/
  maxAmp : NUM
  /-- `normFactor` (R55) -/
  normFactor : NUM
  /-- `denormFactor` (R55) -/
  denormFactor : NUM
  /-- the valid peak records; `pkCount` is their number (R56, log entry 12) -/
  pk : List Peak
  /-- the wavetable with its guard point (R57) -/
  wt : List NUM
  /-- the kind of the table held (R57) -/
  wtKind : Word
  /-- the oscillator slots (R58) -/
  osc : List Osc
  /-- how many times unspecified samples were drawn (model's own field, log entry 8) -/
  freeCount : Nat
  deriving DecidableEq, Repr

/-- The block never stops with a fault: every error is a status code of a response (60_exceptions.md R280,
R283), no command sequence reaches a state that is not described (R293). So no constructor: safe. -/
inductive Fault
  deriving DecidableEq, Repr

/-- Refusals. -/
inductive Refusal where
  /-- Raised only by an arm of `exec` for an instruction that has no meaning yet (there is none): safe. -/
  | notModelled (mnemonic : String)
  deriving DecidableEq, Repr

/-- The reset values of the staged registers (R27 to R38, R61): `CFG_SRATE` 44100, `CFG_GSIGMA` 0.4, `CFG_THRK` 1,
`CFG_PKTHR` 0, `CFG_EPS` 1e-7 as values of the numeric type. -/
def Staged.resetIn (N : NumType) : Staged :=
  { winKind := 0, winSize := 1024, hopFactor := 4, srate := N.ofNat 44100, pad := 1, waveKind := 0,
    tabSize := 1024, maxTrk := 32, gsigma := N.ofDecimal false 4 1, thrK := N.one, pkThr := N.zero,
    eps := N.ofDecimal false 1 7 }

/-- The void active configuration: integers 0, `NUM` members `+0` (R24). -/
def Active.voidIn (N : NumType) : Active :=
  { windowKind := 0, windowSize := 0, hopFactor := 0, sampleRate := N.zero, padFlag := false, waveKind := 0,
    tableSize := 0, maxTracks := 0, gsigma := N.zero, thrK := N.zero, pkThr := N.zero, eps := N.zero }

/-- A ring buffer that does not exist (R47). -/
def Ring.absent : Ring := { buf := [], w := 0, r := 0 }

/-- The reset state of an implementation with these parameters (R61, R310): `UNCONF`, flags 0, staged and live
registers at their reset values, error log zero, normalisation state `+0`, 1, 1, configuration void, no array. -/
def State.resetWith (p : Params) : State :=
  let N := p.num.ops
  { params := p
    port := [], response := none,
    mode := .unconf, halt := false, frdy := false, specDirty := false, wtValid := false,
    staged := Staged.resetIn N,
    normMode := .count, denorm := true, mixGain := N.one,
    errFirst := 0, errLast := 0, errCnt := 0,
    act := Active.voidIn N, appetite := 0, count := 0,
    inRing := Ring.absent, outRing := Ring.absent,
    win := [], specRe := [], specIm := [], amp := [], mag := [], phs := [], frq := [],
    mthr := [], pthr := [],
    maxAmp := N.zero, normFactor := N.one, denormFactor := N.one,
    pk := [], wt := [], wtKind := 0, osc := [], freeCount := 0 }

/-- The reset state of an implementation with the default parameters (R7, R61, R310). -/
def State.reset : State := State.resetWith {}

end Sys2Proof.Machine
end

