-- ==== Sys2Proof/Machine/Ops.lean ====
section
/-! DEFINITION. The named operations over the block's arrays, rings, command port and error log: derived
configuration (10_state.md R25), element access (20_memory.md R70, R73), the ring buffer primitive
(41_ring_stream.md R140), responses (30_encoding.md R96) and what an error does (60_exceptions.md R285). -/

namespace Sys2Proof.Machine

/-- The three outcomes of a step of this machine. -/
abbrev Result := Host.Outcome State Fault Refusal

/-- The operations of the numeric type the block computes in (00_scope.md R7, R12). -/
def State.num (s : State) : NumType := s.params.num.ops

/-! ## Derived configuration (10_state.md R25) -/

/-- `N`, the window size as a number. -/
def Active.size (a : Active) : Nat := a.windowSize.toNat
/-- `H = N / hopFactor`. -/
def Active.hopSize (a : Active) : Nat := a.size / a.hopFactor.toNat
/-- `P = 2*N` if `padFlag` is set, else `N`. -/
def Active.paddedSize (a : Active) : Nat := if a.padFlag then 2 * a.size else a.size
/-- `B = P/2 + 1`. -/
def Active.numBins (a : Active) : Nat := a.paddedSize / 2 + 1
/-- `binWidth = fs / ofNat(P)`. -/
def Active.binWidth (N : NumType) (a : Active) : NUM := N.div a.sampleRate (N.ofNat a.paddedSize)
/-- `nyquist = fs / 2`. -/
def Active.nyquist (N : NumType) (a : Active) : NUM := N.div a.sampleRate N.two
/-- `pkCap = ceil((B - 4) / 4)` if `B >= 5`, else 0. -/
def Active.pkCap (a : Active) : Nat := if 5 ≤ a.numBins then (a.numBins - 4 + 3) / 4 else 0
/-- `T`, the table size as a number. -/
def Active.tabLen (a : Active) : Nat := a.tableSize.toNat
/-- `M`, the number of slots as a number. -/
def Active.slots (a : Active) : Nat := a.maxTracks.toNat

/-! ## Arrays (20_memory.md R70, R73, R180)

Every index a rule uses is range-checked before (R10, R73) or in range by an invariant (R60, R210, R293); the
value read outside an array is therefore never used in a state a run reaches (log entry 13). -/

/-- `arr[i]` -/
def readAt (arr : List NUM) (i : Nat) : NUM := arr.getD i 0
/-- `arr[i] <- v` -/
def writeAt (arr : List NUM) (i : Nat) (v : NUM) : List NUM := arr.set i v

/-- A slot with every field `+0` or 0 (40_config_registers.md R124). -/
def Osc.zero (N : NumType) : Osc :=
  { ph := N.zero, amp := N.zero, freq := N.zero, tAmp := N.zero, tFreq := N.zero, tPhase := N.zero,
    ampStep := N.zero, freqStep := N.zero, stepsLeft := 0, active := false }

/-- A slot of zero words, for the reads that never happen (log entry 13). -/
def Osc.absent : Osc :=
  { ph := 0, amp := 0, freq := 0, tAmp := 0, tFreq := 0, tPhase := 0, ampStep := 0, freqStep := 0, stepsLeft := 0
    active := false }

/-- A peak record of zero words, for the reads that never happen (log entry 13). -/
def Peak.absent : Peak := { bin := 0, off := 0, mag := 0, amp := 0, frq := 0, phs := 0 }

/-- `osc[j]` -/
def State.slot (s : State) (j : Nat) : Osc := s.osc.getD j Osc.absent
/-- `osc[j] <- o` -/
def State.setSlot (s : State) (j : Nat) (o : Osc) : State := { s with osc := s.osc.set j o }
/-- `pk[k]` -/
def State.peak (s : State) (k : Nat) : Peak := s.pk.getD k Peak.absent
/-- `pkCount` (10_state.md R56): the number of valid records. -/
def State.pkCount (s : State) : Nat := s.pk.length

/-! ## Integers (00_scope.md R11) -/

/-- A `u32` counter step that saturates at `0xFFFFFFFF`. -/
def satInc (c : Word) : Word := if c = 0xFFFFFFFF#32 then c else c + 1

/-- `zext_32` of a count. -/
def u32 (n : Nat) : Word := BitVec.ofNat 32 n

/-- `zext_32` of a flag. -/
def flagWord (b : Bool) : Word := if b then 1 else 0

/-- A power of two (10_state.md R28). -/
def isPow2 (n : Nat) : Bool := n != 0 && n &&& (n - 1) == 0

/-! ## The ring buffer primitive (41_ring_stream.md R140) -/

/-- `(pos + 1) & (C - 1)` -/
def Ring.advance (g : Ring) (pos : Nat) : Nat := (pos + 1) &&& (g.buf.length - 1)

/-- `RB.write(ring, x)` -/
def Ring.write (g : Ring) (x : NUM) : Ring := { g with buf := writeAt g.buf g.w x, w := g.advance g.w }

/-- The value `RB.read(ring)` returns. -/
def Ring.front (g : Ring) : NUM := readAt g.buf g.r

/-- The ring after `RB.read(ring)`. -/
def Ring.pop (g : Ring) : Ring := { g with r := g.advance g.r }

/-- `n` ring writes, in order. -/
def Ring.writeMany (g : Ring) : List NUM → Ring
  | [] => g
  | x :: xs => (g.write x).writeMany xs

/-- The values of `n` ring reads, in order. -/
def Ring.readMany (g : Ring) : Nat → List NUM
  | 0 => []
  | n + 1 => g.front :: g.pop.readMany n

/-- The ring after `n` ring reads. -/
def Ring.popMany (g : Ring) : Nat → Ring
  | 0 => g
  | n + 1 => g.pop.popMany n

/-- A ring of capacity `n` as `INIT` leaves it (40_config_registers.md R124). -/
def Ring.fresh (N : NumType) (n : Nat) : Ring := { buf := List.replicate n N.zero, w := 0, r := 0 }

/-! ## Responses and errors -/

/-- The status code (60_exceptions.md R281). -/
def Status.code : Status → Word
  | .ok => 0 | .illegal => 1 | .notInit => 2 | .config => 3 | .state => 4
  | .index => 5 | .freq => 6 | .halted => 7 | .rdonly => 8 | .value => 9

/-- The halting errors (60_exceptions.md R284). -/
def Status.halting : Status → Bool
  | .state | .freq | .value => true
  | _ => false

/-- `respond(OK, res)` (30_encoding.md R96). -/
def respondOk (res : Word) (s : State) : State :=
  { s with response := some { status := Status.code .ok, result := res } }

/-- `raise <E_c>`: what every error does (60_exceptions.md R285, R286, R283). The error log is updated,
`HALT` is set by a halting error, the response is `(c, 0)`, and nothing else changes. -/
def raiseError (c : Status) (s : State) : State :=
  { s with
    errFirst := if s.errCnt = 0 then c.code else s.errFirst
    errLast := c.code
    errCnt := satInc s.errCnt
    halt := s.halt || c.halting
    response := some { status := c.code, result := 0 } }

/-- The first check of a list that fails (60_exceptions.md R288): each check is a failure condition with the
code it gives. -/
def firstError : List (Bool × Status) → Option Status
  | [] => none
  | (failed, c) :: rest => if failed then some c else firstError rest

/-- A command: its checks in order, then its Operation (40_config_registers.md R120). A command that raises
an error performs none of its Operation. -/
def runChecked (checks : List (Bool × Status)) (s done : State) : Result :=
  match firstError checks with
  | some c => .next (raiseError c s)
  | none => .next done

/-- `HALT = 1` gives `E_HALTED` (60_exceptions.md R288 step 2). -/
def haltedCheck (s : State) : Bool × Status := (s.halt, .halted)

/-- `HALT = 1` gives `E_HALTED`, then `MODE = UNCONF` gives `E_NOTINIT` (R288 steps 2 and 3). -/
def readyChecks (s : State) : List (Bool × Status) := [haltedCheck s, (s.mode == .unconf, .notInit)]

/-- An index not below the length gives `E_INDEX` (20_memory.md R73, R288 step 6). -/
def indexCheck (idx : BitVec 20) (len : Nat) : Bool × Status := (decide (len ≤ idx.toNat), .index)

/-! ## The command port (30_encoding.md R90; log entries 9 and 10) -/

/-- Take the next event off the port. -/
def fetch (s : State) : Option (PortEvent × State) :=
  match s.port with
  | [] => none
  | e :: rest => some (e, { s with port := rest })

/-- Nothing stands on the port: the block waits and emits nothing (10_state.md R21, 30_encoding.md R97). -/
def idle (s : State) : State := { s with response := none }

/-- The reset input (70_reset_and_hazards.md R310): everything goes to the reset state. The implementation
parameters are not changeable (00_scope.md R7), and the events the host has still to deliver stay on the port, which is
not the block's. -/
def applyReset (s : State) : State := { State.resetWith s.params with port := s.port }

end Sys2Proof.Machine
end

