-- ==== Sys2Proof/Machine/Flags.lean ====
section
/-! DEFINITION. The flags and what computes them (10_state.md R23, R41; 41_ring_stream.md R142;
43_bin_access.md R183). -/

namespace Sys2Proof.Machine

/-- The encoding of `MODE` (10_state.md R22). -/
def Mode.code : Mode → Nat
  | .unconf => 0 | .waveform => 1 | .spectrum => 2

/-- The `STATUS` word (10_state.md R41): `MODE` in bits 1:0, then `HALT`, `FRDY`, `SPECDIRTY`, `WTVALID`. -/
def statusWord (s : State) : Word :=
  u32 (s.mode.code + 4 * s.halt.toNat + 8 * s.frdy.toNat + 16 * s.specDirty.toNat + 32 * s.wtValid.toNat)

/-- A `WRS` makes the frame ready: the counter after the increment equals `appetite` (R141). -/
def frameReady (s : State) : Bool := satInc s.count == s.appetite

/-- The arrays whose modification dirties the spectrum (43_bin_access.md R183). -/
def dirties : BinArray → Bool
  | .amp | .mag | .phs => true
  | _ => false

/-- `SPECDIRTY` after a successful `SETBIN` to `a` (R183). -/
def specDirtyAfter (s : State) (a : BinArray) : Bool := s.specDirty || (s.mode == .spectrum && dirties a)

/-- `NACTIVE` (10_state.md R46): the number of slots `j < M` whose `active` bit is set. -/
def activeCount (s : State) : Nat := (s.osc.take s.act.slots).countP Osc.active

/-! ## `MIXCTL` (10_state.md R39) -/

/-- The encoding of `NORMMODE`. -/
def NormMode.code : NormMode → Nat
  | .none => 0 | .count => 1 | .sqrtCount => 2

/-- The `NORMMODE` of a `MIXCTL` word that `mixCtlLegal` admits. -/
def normModeOf (v : Word) : NormMode :=
  if v.toNat % 4 = 0 then .none else if v.toNat % 4 = 1 then .count else .sqrtCount

/-- The `DENORM` bit of a `MIXCTL` word. -/
def denormOf (v : Word) : Bool := v.getLsbD 2

/-- The `MIXCTL` word: `NORMMODE` in bits 1:0, `DENORM` in bit 2, reserved bits zero. -/
def mixCtlWord (s : State) : Word := u32 (s.normMode.code + 4 * s.denorm.toNat)

end Sys2Proof.Machine
end

