-- ==== Sys2Proof/Machine/Operands.lean ====
section
/-! DEFINITION. Every operand form: the register space (10_state.md R26 to R46), the array selectors
(20_memory.md R70, 43_bin_access.md R180), the field selectors (20_memory.md R71) and the operand checks of
the oscillator commands (45_oscillator.md R201). -/

namespace Sys2Proof.Machine

/-! ## Registers -/

/-- `v` where the block is configured, `d` while `UNCONF` (10_state.md R43 to R46). -/
def whenConfigured (s : State) (d v : Word) : Word := if s.mode = .unconf then d else v

/-- `REG[r]` (40_config_registers.md R125). -/
def readReg (s : State) : Reg → Word
  | .cfgWinKind => s.staged.winKind
  | .cfgWinSize => s.staged.winSize
  | .cfgHopFactor => s.staged.hopFactor
  | .cfgSrate => s.staged.srate
  | .cfgPad => s.staged.pad
  | .cfgWaveKind => s.staged.waveKind
  | .cfgTabSize => s.staged.tabSize
  | .cfgMaxTrk => s.staged.maxTrk
  | .cfgGsigma => s.staged.gsigma
  | .cfgThrK => s.staged.thrK
  | .cfgPkThr => s.staged.pkThr
  | .cfgEps => s.staged.eps
  | .mixCtl => mixCtlWord s
  | .mixGain => s.mixGain
  | .status => statusWord s
  | .errFirst => s.errFirst
  | .errLast => s.errLast
  | .errCnt => s.errCnt
  | .winSize => whenConfigured s 0 s.act.windowSize
  | .hopSize => whenConfigured s 0 (u32 s.act.hopSize)
  | .padSize => whenConfigured s 0 (u32 s.act.paddedSize)
  | .numBins => whenConfigured s 0 (u32 s.act.numBins)
  | .appetite => whenConfigured s 0 s.appetite
  | .count => whenConfigured s 0 s.count
  | .inW => whenConfigured s 0 (u32 s.inRing.w)
  | .inR => whenConfigured s 0 (u32 s.inRing.r)
  | .outW => whenConfigured s 0 (u32 s.outRing.w)
  | .outR => whenConfigured s 0 (u32 s.outRing.r)
  | .srate => whenConfigured s s.num.zero s.act.sampleRate
  | .binWidth => whenConfigured s s.num.zero (s.act.binWidth s.num)
  | .maxAmp => whenConfigured s s.num.zero s.maxAmp
  | .normFactor => whenConfigured s s.num.one s.normFactor
  | .denormFactor => whenConfigured s s.num.one s.denormFactor
  | .pkCount => whenConfigured s 0 (u32 s.pkCount)
  | .pkCap => whenConfigured s 0 (u32 s.act.pkCap)
  | .nosc => whenConfigured s 0 s.act.maxTracks
  | .tabSize => whenConfigured s 0 s.act.tableSize
  | .wtKind => whenConfigured s 0 s.wtKind
  | .nActive => whenConfigured s 0 (u32 (activeCount s))
  | .id => s.params.idValue
  | .winKind => whenConfigured s 0 s.act.windowKind
  | .hopFactor => whenConfigured s 0 s.act.hopFactor
  | .pad => whenConfigured s 0 (flagWord s.act.padFlag)
  | .eps => whenConfigured s s.num.zero s.act.eps

/-- A status register, `0x20` to `0x3D`, read-only (10_state.md R26). -/
def regReadOnly (r : Reg) : Bool := decide (0x20 ≤ r.num.toNat)

/-- `REG[r] <- v` for a staged or live register (40_config_registers.md R126). A status register is not
written (the command has raised `E_RDONLY` before). -/
def writeReg (s : State) (v : Word) : Reg → State
  | .cfgWinKind => { s with staged.winKind := v }
  | .cfgWinSize => { s with staged.winSize := v }
  | .cfgHopFactor => { s with staged.hopFactor := v }
  | .cfgSrate => { s with staged.srate := v }
  | .cfgPad => { s with staged.pad := v }
  | .cfgWaveKind => { s with staged.waveKind := v }
  | .cfgTabSize => { s with staged.tabSize := v }
  | .cfgMaxTrk => { s with staged.maxTrk := v }
  | .cfgGsigma => { s with staged.gsigma := v }
  | .cfgThrK => { s with staged.thrK := v }
  | .cfgPkThr => { s with staged.pkThr := v }
  | .cfgEps => { s with staged.eps := v }
  | .mixCtl => { s with normMode := normModeOf v, denorm := denormOf v }
  | .mixGain => { s with mixGain := v }
  | _ => s

/-! ## Array selectors -/

/-- The array a selector names (20_memory.md R70). -/
def binArray (s : State) : BinArray → List NUM
  | .amp => s.amp
  | .mag => s.mag
  | .phs => s.phs
  | .frq => s.frq
  | .mthr => s.mthr
  | .pthr => s.pthr
  | .win => s.win

/-- `len(arr)`: `B`, or `N` for `WIN` (43_bin_access.md R180). -/
def binLen (s : State) : BinArray → Nat
  | .win => s.act.size
  | _ => s.act.numBins

/-- The arrays `SETBIN` may not write (43_bin_access.md R184). -/
def arrayReadOnly : BinArray → Bool
  | .frq | .win => true
  | _ => false

/-- `arr[i] <- v` for a writable array; the read-only arrays stay (43_bin_access.md R182, R184). -/
def setBin (s : State) (i : Nat) (v : NUM) : BinArray → State
  | .amp => { s with amp := writeAt s.amp i v }
  | .mag => { s with mag := writeAt s.mag i v }
  | .phs => { s with phs := writeAt s.phs i v }
  | .mthr => { s with mthr := writeAt s.mthr i v }
  | .pthr => { s with pthr := writeAt s.pthr i v }
  | .frq | .win => s

/-! ## Field selectors -/

/-- The field of a slot as `GETOSC` returns it (20_memory.md R71, 45_oscillator.md R208). -/
def oscField (o : Osc) : OscField → Word
  | .ph => o.ph
  | .amp => o.amp
  | .freq => o.freq
  | .tAmp => o.tAmp
  | .tFreq => o.tFreq
  | .tPhase => o.tPhase
  | .steps => o.stepsLeft
  | .active => flagWord o.active
  | .ampStep => o.ampStep
  | .freqStep => o.freqStep

/-- The field of a peak record as `GETPK` returns it (20_memory.md R71, 46_peak_detector.md R229). -/
def pkField (p : Peak) : PkField → Word
  | .bin => p.bin
  | .off => p.off
  | .mag => p.mag
  | .amp => p.amp
  | .frq => p.frq
  | .phs => p.phs

/-! ## Oscillator operands (45_oscillator.md R201) -/

/-- The frequency operand is finite and in `[0, nyquist]`. -/
def freqLegal (N : NumType) (nyquist f : NUM) : Bool := N.isFinite f && N.le N.zero f && N.le f nyquist

/-- The operand checks of `OSTART` and `OUPD` in operand order: amplitude, frequency, phase (60 R288 step 7). -/
def oscOperandChecks (s : State) (a f p : NUM) : List (Bool × Status) :=
  [(!s.num.isFinite a, .value), (!freqLegal s.num (s.act.nyquist s.num) f, .freq), (!s.num.isFinite p, .value)]

end Sys2Proof.Machine
end

