-- ==== Sys2Proof/Machine/BinAccess.lean ====
section
/-! DEFINITION. The per-bin access commands `GETBIN`, `SETBIN` (43_bin_access.md). -/

namespace Sys2Proof.Machine

/-- `GETBIN` (R181). -/
def execGetbin (a : BinArray) (idx : BitVec 20) (s : State) : Result :=
  runChecked (readyChecks s ++ [indexCheck idx (binLen s a)]) s
    (respondOk (readAt (binArray s a) idx.toNat) s)

/-- The Operation of `SETBIN` on the state: the element written, and `SPECDIRTY` where R183 says so. -/
def storeBin (a : BinArray) (i : Nat) (v : NUM) (s : State) : State :=
  { setBin s i v a with specDirty := specDirtyAfter s a }

/-- `SETBIN` (R182 to R185): the value is stored unchanged; `E_RDONLY` is tested before `E_INDEX`. -/
def execSetbin (a : BinArray) (idx : BitVec 20) (v : NUM) (s : State) : Result :=
  runChecked (readyChecks s ++ [(arrayReadOnly a, .rdonly), indexCheck idx s.act.numBins]) s
    (respondOk 0 (storeBin a idx.toNat v s))

end Sys2Proof.Machine
end

