-- ==== Sys2Proof/Machine/Transform.lean ====
section
/-! DEFINITION. The transform commands `XFM.FFT`, `XFM.IFFT` with the window function and the transform
contract (42_transform.md). -/

namespace Sys2Proof.Machine

/-! ## Window (R158) -/

/-- The periodic Hann coefficient `0.5 * (1 - cos((TWO_PI * ofNat(n)) / ofNat(N)))`. -/
def hann (N : NumType) (size n : Nat) : NUM :=
  N.mul N.half
    (N.sub N.one (N.cos (N.div (N.mul N.twoPi (N.ofNat n)) (N.ofNat size))))

/-- The Gaussian coefficient `exp((0 - 0.5) * (z * z))`, `z = (ofNat(n) - c) / (gsigma * c)`,
`c = ofNat(N - 1) / 2`. -/
def gaussian (N : NumType) (size n : Nat) (gsigma : NUM) : NUM :=
  let c := N.div (N.ofNat (size - 1)) N.two
  let z := N.div (N.sub (N.ofNat n) c) (N.mul gsigma c)
  N.exp (N.mul (N.sub N.zero N.half) (N.mul z z))

/-- `Window(kind, N, n, gsigma)`: the implementation's parameter, by default the formulas for 0 `HANN` and 1 `GAUSSIAN`
(log entry 6). -/
def window (p : Params) (kind size n : Nat) (gsigma : NUM) : NUM :=
  match p.window with
  | .formula => if kind = 0 then hann p.num.ops size n else gaussian p.num.ops size n gsigma
  | .other => Config.otherWindow kind size n gsigma

/-! ## Transform contract (R160, R161; log entry 7) -/

/-- `RFFT(P, x)`: `P/2 + 1` complex values. -/
def rfft (num : NumKind) (p : Nat) (x : List NUM) : List (NUM × NUM) :=
  (List.range (p / 2 + 1)).map (Config.rfftBin num p x)

/-- The first `n` of the `P` values of `IRFFT(P, specRe, specIm)`. -/
def irfftFirst (num : NumKind) (n p : Nat) (re im : List NUM) : List NUM :=
  (List.range n).map (Config.irfftSample num p re im)

/-! ## Derived arrays -/

/-- `m = sqrt(re*re + im*im)` (R156). -/
def modulus (N : NumType) (re im : NUM) : NUM := N.sqrt (N.add (N.mul re re) (N.mul im im))

/-- Amplitude `(2 * m) / ofNat(B - 1)` (R162). -/
def amplitude (N : NumType) (bins : Nat) (re im : NUM) : NUM :=
  N.div (N.mul N.two (modulus N re im)) (N.ofNat (bins - 1))

/-- `t <- t + 1` if `t < 0`. -/
def liftNegative (N : NumType) (t : NUM) : NUM := if N.lt t N.zero then N.add t N.one else t

/-- `PhaseTurns(im, re)` (R163). -/
def phaseTurns (N : NumType) (im re : NUM) : NUM :=
  let t := liftNegative N (N.div (N.atan2 im re) N.twoPi)
  if N.ge t N.one then N.zero else t

/-- Decibel magnitude `20 * log10(a + eps)` (R164). -/
def decibels (N : NumType) (eps a : NUM) : NUM := N.mul N.twenty (N.log10 (N.add a eps))

/-- The greatest of the values, starting the comparison from `m`; a NaN never wins (R165). -/
def maxFrom (N : NumType) (m : NUM) (as : List NUM) : NUM := as.foldl (fun best a => if N.gt a best then a else best) m

/-- The largest amplitude over bins `1 .. B-2` (R165). -/
def maxAmplitude (N : NumType) (bins : Nat) (amp : List NUM) : NUM :=
  maxFrom N N.zero ((amp.drop 1).take (bins - 2))

/-! ## Forward transform (R156) -/

/-- `tbuf`: the windowed frame at offset 0, `+0` after it (R159). -/
def paddedFrame (N : NumType) (p : Nat) (samples win : List NUM) : List NUM :=
  let framed := List.zipWith N.mul samples win
  framed ++ List.replicate (p - framed.length) N.zero

/-- The input ring after a frame is read: `N` reads, then `in_r <- (in_r + H) & (N - 1)` (R157). -/
def afterFrame (a : Active) (g : Ring) : Ring :=
  let g' := g.popMany a.size
  { g' with r := (g'.r + a.hopSize) &&& (a.size - 1) }

/-- The factors after a frame whose maximum is `m`: kept unless `m` is finite and positive (R165). -/
def withMax (m : NUM) (s : State) : State :=
  let good := s.num.gt m s.num.zero && s.num.isFinite m
  { s with
    maxAmp := m
    normFactor := if good then s.num.div s.num.one m else s.normFactor
    denormFactor := if good then m else s.denormFactor }

/-- The Operation of `XFM.FFT` (R156 to R166). -/
def forwardTransform (s : State) : State :=
  let N := s.num
  let a := s.act
  let spec := rfft s.params.num a.paddedSize (paddedFrame N a.paddedSize (s.inRing.readMany a.size) s.win)
  let amp := spec.map fun c => amplitude N a.numBins c.1 c.2
  withMax (maxAmplitude N a.numBins amp)
    { s with
      inRing := afterFrame a s.inRing
      specRe := spec.map Prod.fst
      specIm := spec.map Prod.snd
      amp := amp
      phs := spec.map fun c => phaseTurns N c.2 c.1
      mag := amp.map (decibels N a.eps)
      count := 0
      appetite := u32 a.hopSize
      frdy := false
      specDirty := false
      mode := .spectrum }

/-- `XFM.FFT` (R156). -/
def execXfmFft (s : State) : Result :=
  runChecked (readyChecks s ++ [(s.mode != .waveform, .state)]) s (respondOk 0 (forwardTransform s))

/-! ## Inverse transform (R167) -/

/-- The `N` samples `XFM.IFFT` streams: the first `N` inverse results, or unspecified values where the
spectrum was modified (R167, R168; log entry 8). -/
def inverseSamples (s : State) : List NUM :=
  if s.specDirty then (List.range s.act.size).map (Config.freeSample s.freeCount)
  else irfftFirst s.params.num s.act.size s.act.paddedSize s.specRe s.specIm

/-- The Operation of `XFM.IFFT` (R167). -/
def inverseTransform (s : State) : State :=
  { s with
    outRing := s.outRing.writeMany (inverseSamples s)
    mode := .waveform
    freeCount := if s.specDirty then s.freeCount + 1 else s.freeCount }

/-- `XFM.IFFT` (R167). -/
def execXfmIfft (s : State) : Result :=
  runChecked (readyChecks s ++ [(s.mode != .spectrum, .state)]) s (respondOk 0 (inverseTransform s))

end Sys2Proof.Machine
end

