-- ==== Sys2Proof/Machine/Wavetable.lean ====
section
/-! DEFINITION. The wavetable commands `WTGEN`, `GETWT` (44_wavetable.md). -/

namespace Sys2Proof.Machine

/-- Sample `i` of kind 0, `SINE`, by the formula of R191: `sin((TWO_PI * ofNat(i)) / ofNat(T))`. -/
def sineSample (N : NumType) (t i : Nat) : NUM := N.sin (N.div (N.mul N.twoPi (N.ofNat i)) (N.ofNat t))

/-- `WaveGen(kind, T, i)` (R191): the implementation's parameter, by default the formula for kind 0 `SINE`, the one
kind defined (log entry 6). -/
def waveGen (p : Params) (kind t i : Nat) : NUM :=
  match p.waveGen with
  | .formula => sineSample p.num.ops t i
  | .other => Config.otherWaveGen kind t i

/-- The table `wt[0..T]` of a kind: `T` generated samples, then the guard point, a copy of element 0
(R192, R193). -/
def waveTable (p : Params) (kind t : Nat) : List NUM :=
  let samples := (List.range t).map (waveGen p kind t)
  samples ++ [readAt samples 0]

/-- The state with the table generated for `kind` (R192). -/
def regenerate (kind : Word) (s : State) : State :=
  { s with wt := waveTable s.params kind.toNat s.act.tabLen, wtKind := kind, wtValid := true }

/-- `WTGEN` (R192). -/
def execWtgen (force : Bool) (kind : BitVec 8) (s : State) : Result :=
  runChecked ((!Config.waveKindDefined kind.toNat, .illegal) :: readyChecks s) s
    (if s.wtValid && s.wtKind == kind.setWidth 32 && !force then respondOk 0 s
     else respondOk 1 (regenerate (kind.setWidth 32) s))

/-- `GETWT` (R194): index `T`, the guard point, is legal. -/
def execGetwt (idx : BitVec 20) (s : State) : Result :=
  runChecked (readyChecks s ++ [indexCheck idx (s.act.tabLen + 1)]) s
    (respondOk (readAt s.wt idx.toNat) s)

end Sys2Proof.Machine
end

