-- ==== Sys2Proof/Machine/ConfigRegs.lean ====
section
/-! DEFINITION. The configuration and register commands `NOP`, `INIT`, `RDREG`, `WRREG`
(40_config_registers.md). -/

namespace Sys2Proof.Machine

/-- `NOP` (R121): executes in every mode and with `HALT = 1`. -/
def execNop (s : State) : Result := .next (respondOk 0 s)

/-! ## `INIT` (R122 to R124) -/

/-- Finite and greater than 0. -/
def finitePositive (N : NumType) (v : NUM) : Bool := N.isFinite v && N.gt v N.zero

/-- `ConfigLegal()`: conditions V1 to V12 (R123), with the bounds the implementation fixes (00_scope.md R7). -/
def configLegal (p : Params) (g : Staged) : Bool :=
  let N := p.num.ops
  Config.windowKindDefined g.winKind.toNat
  && (isPow2 g.winSize.toNat && decide (4 ≤ g.winSize.toNat) && decide (g.winSize.toNat ≤ p.wsMax))
  && (isPow2 g.hopFactor.toNat && decide (1 ≤ g.hopFactor.toNat)
      && decide (g.hopFactor.toNat ≤ g.winSize.toNat))
  && finitePositive N g.srate
  && (g.pad == 0 || g.pad == 1)
  && Config.waveKindDefined g.waveKind.toNat
  && (decide (2 ≤ g.tabSize.toNat) && decide (g.tabSize.toNat ≤ p.tsMax))
  && (decide (1 ≤ g.maxTrk.toNat) && decide (g.maxTrk.toNat ≤ p.noscMax))
  && (g.winKind != 1 || finitePositive N g.gsigma)
  && finitePositive N g.thrK
  && (N.isFinite g.pkThr && N.ge g.pkThr N.zero)
  && finitePositive N g.eps

/-- The active configuration that `INIT` latches from the staged registers (10_state.md R24). -/
def latch (g : Staged) : Active :=
  { windowKind := g.winKind, windowSize := g.winSize, hopFactor := g.hopFactor, sampleRate := g.srate,
    padFlag := g.pad == 1, waveKind := g.waveKind, tableSize := g.tabSize, maxTracks := g.maxTrk,
    gsigma := g.gsigma, thrK := g.thrK, pkThr := g.pkThr, eps := g.eps }

/-- The first three lines of `INIT`'s Operation (R122), with the mode `UNCONF`: flags cleared, normalisation
state reset, every array and the active configuration discarded. -/
def discard (s : State) : State :=
  { s with
    halt := false, wtValid := false, frdy := false, specDirty := false
    maxAmp := s.num.zero, normFactor := s.num.one, denormFactor := s.num.one
    mode := .unconf
    act := Active.voidIn s.num, appetite := 0, count := 0
    inRing := Ring.absent, outRing := Ring.absent
    win := [], specRe := [], specIm := [], amp := [], mag := [], phs := [], frq := []
    mthr := [], pthr := [], pk := [], wt := [], wtKind := 0, osc := [] }

/-- `frq[i] = (ofNat(i) * fs) / ofNat(P)` (10_state.md R53). -/
def binFrequency (N : NumType) (a : Active) (i : Nat) : NUM :=
  N.div (N.mul (N.ofNat i) a.sampleRate) (N.ofNat a.paddedSize)

/-- `mthr[i] = 20 * log10(1 / (thrK * frq[i]))` (10_state.md R54). -/
def magThreshold (N : NumType) (a : Active) (i : Nat) : NUM :=
  N.mul N.twenty (N.log10 (N.div N.one (N.mul a.thrK (binFrequency N a i))))

/-- What a successful `INIT` establishes after latching `a` (R124). -/
def establish (a : Active) (s : State) : State :=
  let N := s.num
  let zeros := List.replicate a.numBins N.zero
  { s with
    act := a
    inRing := Ring.fresh N a.size
    outRing := Ring.fresh N a.size
    appetite := a.windowSize
    count := 0
    win := (List.range a.size).map fun n => window s.params a.windowKind.toNat a.size n a.gsigma
    specRe := zeros, specIm := zeros, amp := zeros, mag := zeros, phs := zeros
    frq := (List.range a.numBins).map (binFrequency N a)
    mthr := (List.range a.numBins).map (magThreshold N a)
    pthr := List.replicate a.numBins a.pkThr
    pk := []
    wt := waveTable s.params a.waveKind.toNat a.tabLen
    wtKind := a.waveKind
    wtValid := true
    osc := List.replicate a.slots (Osc.zero N)
    mode := .waveform }

/-- `INIT` (R122): exempt from the `HALT` and `UNCONF` checks; a failure leaves the block `UNCONF` (R289). -/
def execInit (s : State) : Result :=
  if configLegal s.params s.staged then .next (respondOk 0 (establish (latch s.staged) (discard s)))
  else .next (raiseError .config (discard s))

/-! ## Register access -/

/-- `RDREG` (R125): executes in every mode and with `HALT = 1`. -/
def execRdreg (r : Reg) (s : State) : Result := .next (respondOk (readReg s r) s)

/-- A `WRREG` whose packet is an illegal encoding (R126, 30_encoding.md R98). -/
def illegalWrite (r : Reg) (v : Word) : Bool := r == .mixCtl && !mixCtlLegal v

/-- `WRREG` (R126): executes in every mode; there is no `E_NOTINIT` for it. -/
def execWrreg (r : Reg) (v : Word) (s : State) : Result :=
  runChecked [(illegalWrite r v, .illegal), haltedCheck s, (regReadOnly r, .rdonly)] s
    (respondOk 0 (writeReg s v r))

end Sys2Proof.Machine
end

