-- ==== Sys2Proof/Machine/Oscillator.lean ====
section
/-! DEFINITION. The oscillator bank commands `OSTART`, `OSTOP`, `OUPD`, `ONEXT`, `OACT`, `GETOSC`
(45_oscillator.md). -/

namespace Sys2Proof.Machine

/-- The checks every oscillator command starts with: ready, then `IDX >= M` gives `E_INDEX`. -/
def slotChecks (s : State) (j : BitVec 20) : List (Bool × Status) :=
  readyChecks s ++ [indexCheck j s.act.slots]

/-- The rounding guard of the phase accumulator (R202, R206): `+0` unless `0 <= x < ofNat(T)`. -/
def phaseGuard (N : NumType) (t : Nat) (x : NUM) : NUM :=
  if !N.lt x (N.ofNat t) || N.lt x N.zero then N.zero else x

/-- The accumulator position of a phase `p` in turns (R202). -/
def phasePosition (N : NumType) (t : Nat) (p : NUM) : NUM :=
  phaseGuard N t (N.mul (N.sub p (N.ofInt (N.floor p))) (N.ofNat t))

/-- The slot after `start` (R202): parameters set at once, any glide cancelled, `active` kept. -/
def Osc.start (N : NumType) (t : Nat) (a f p : NUM) (o : Osc) : Osc :=
  { o with
    amp := a, tAmp := a, freq := f, tFreq := f, tPhase := p
    ph := phasePosition N t p
    ampStep := N.zero, freqStep := N.zero, stepsLeft := 0 }

/-- The slot after `stop` (R203): silent, no glide, not active; frequency and phase kept. -/
def Osc.stop (N : NumType) (o : Osc) : Osc :=
  { o with
    amp := N.zero, tAmp := N.zero, ampStep := N.zero, freqStep := N.zero, stepsLeft := 0
    active := false }

/-- The slot after `update` (R204): the targets recorded, and a glide of `n` calls set up, or for `n = 0` the
targets applied at once. -/
def Osc.update (N : NumType) (a f p : NUM) (n : Word) (o : Osc) : Osc :=
  if n = 0 then
    { o with
      tAmp := a, tFreq := f, tPhase := p
      amp := a, freq := f, ampStep := N.zero, freqStep := N.zero, stepsLeft := 0 }
  else
    { o with
      tAmp := a, tFreq := f, tPhase := p
      ampStep := N.div (N.sub a o.amp) (N.ofNat n.toNat)
      freqStep := N.div (N.sub f o.freq) (N.ofNat n.toNat)
      stepsLeft := n }

/-! ## `Next(j)` (R206) -/

/-- The sample a slot outputs: two adjacent table samples interpolated, times the amplitude. The floor is an index
`0 <= i <= T-1` by the invariant of R210. -/
def Osc.sample (N : NumType) (wt : List NUM) (o : Osc) : NUM :=
  let i := (N.floor o.ph).toNat
  let f := N.sub o.ph (N.ofNat i)
  let w0 := readAt wt i
  let w1 := readAt wt (i + 1)
  N.mul o.amp (N.add w0 (N.mul f (N.sub w1 w0)))

/-- The phase after one call: advanced by `(freq * ofNat(T)) / fs`, wrapped by one subtraction, guarded. -/
def Osc.nextPhase (N : NumType) (t : Nat) (fs : NUM) (o : Osc) : NUM :=
  let x := N.add o.ph (N.div (N.mul o.freq (N.ofNat t)) fs)
  phaseGuard N t (if N.ge x (N.ofNat t) then N.sub x (N.ofNat t) else x)

/-- One glide step: the last one lands on the targets. -/
def Osc.glide (N : NumType) (o : Osc) : Osc :=
  if o.stepsLeft = 0 then o
  else if o.stepsLeft = 1 then { o with stepsLeft := 0, amp := o.tAmp, freq := o.tFreq }
  else
    { o with
      stepsLeft := o.stepsLeft - 1
      amp := N.add o.amp o.ampStep
      freq := N.add o.freq o.freqStep }

/-- The slot after one call of `Next`: the phase advances with the frequency used for this sample, then one
glide step. -/
def Osc.advance (N : NumType) (t : Nat) (fs : NUM) (o : Osc) : Osc := { o with ph := o.nextPhase N t fs }.glide N

/-! ## Commands -/

/-- `OSTART` (R202). -/
def execOstart (j : BitVec 20) (a f p : NUM) (s : State) : Result :=
  runChecked (slotChecks s j ++ oscOperandChecks s a f p) s
    (respondOk 0 (s.setSlot j.toNat ((s.slot j.toNat).start s.num s.act.tabLen a f p)))

/-- `OSTOP` (R203). -/
def execOstop (j : BitVec 20) (s : State) : Result :=
  runChecked (slotChecks s j) s (respondOk 0 (s.setSlot j.toNat ((s.slot j.toNat).stop s.num)))

/-- `OUPD` (R204): `numSteps` is never checked. -/
def execOupd (j : BitVec 20) (a f p : NUM) (n : Word) (s : State) : Result :=
  runChecked (slotChecks s j ++ oscOperandChecks s a f p) s
    (respondOk 0 (s.setSlot j.toNat ((s.slot j.toNat).update s.num a f p n)))

/-- `ONEXT` (R205): one `Next` on one slot, active or not. -/
def execOnext (j : BitVec 20) (s : State) : Result :=
  runChecked (slotChecks s j) s
    (respondOk ((s.slot j.toNat).sample s.num s.wt)
      (s.setSlot j.toNat ((s.slot j.toNat).advance s.num s.act.tabLen s.act.sampleRate)))

/-- `OACT` (R207). -/
def execOact (on : Bool) (j : BitVec 20) (s : State) : Result :=
  runChecked (slotChecks s j) s
    (respondOk 0 (s.setSlot j.toNat { s.slot j.toNat with active := on }))

/-- `GETOSC` (R208). -/
def execGetosc (field : OscField) (j : BitVec 20) (s : State) : Result :=
  runChecked (slotChecks s j) s (respondOk (oscField (s.slot j.toNat) field) s)

end Sys2Proof.Machine
end

