-- ==== Sys2Proof/Machine/Mixer.lean ====
section
/-! DEFINITION. The synthesis mixer command `RDS` (47_mixer.md). -/

namespace Sys2Proof.Machine

/-- The sum of the active slots' samples in ascending slot order, added to `acc` (R241). -/
def mixSum (N : NumType) (wt : List NUM) (acc : NUM) (slots : List Osc) : NUM :=
  (slots.filter Osc.active).foldl (fun sum o => N.add sum (o.sample N wt)) acc

/-- Every active slot advanced by one `Next`; an inactive slot is frozen (R241). -/
def advanceActive (N : NumType) (t : Nat) (fs : NUM) (slots : List Osc) : List Osc :=
  slots.map fun o => if o.active then o.advance N t fs else o

/-- The sum of `n` active slots normalised (R241, R242). -/
def normalise (N : NumType) (mode : NormMode) (n : Nat) (sum : NUM) : NUM :=
  match mode with
  | .none => sum
  | .count => N.div sum (N.ofNat n)
  | .sqrtCount => N.div sum (N.sqrt (N.ofNat n))

/-- The output sample (R241): `+0` where no slot is active, whatever the gain and the factor hold. -/
def mixOutput (s : State) : NUM :=
  let N := s.num
  let slots := s.osc.take s.act.slots
  let n := activeCount s
  if n = 0 then N.zero
  else
    let gained := N.mul (normalise N s.normMode n (mixSum N s.wt N.zero slots)) s.mixGain
    if s.denorm then N.mul gained s.denormFactor else gained

/-- The slots after an `RDS`: those below `M` that are active are advanced. -/
def mixSlots (s : State) : List Osc :=
  advanceActive s.num s.act.tabLen s.act.sampleRate (s.osc.take s.act.slots) ++ s.osc.drop s.act.slots

/-- `RDS` (R241). -/
def execRds (s : State) : Result :=
  runChecked (readyChecks s) s (respondOk (mixOutput s) { s with osc := mixSlots s })

end Sys2Proof.Machine
end

