-- ==== Sys2Proof/Machine/PeakDetector.lean ====
section
/-! DEFINITION. The peak detector commands `PEAKS`, `GETPK` (46_peak_detector.md). -/

namespace Sys2Proof.Machine

/-- `Candidate(i)` (R223): above the threshold and a strict local maximum over five bins. -/
def candidate (N : NumType) (mag mthr : List NUM) (i : Nat) : Bool :=
  let m := readAt mag
  N.gt (m i) (readAt mthr i)
  && N.lt (m (i - 2)) (m (i - 1)) && N.lt (m (i - 1)) (m i)
  && N.gt (m i) (m (i + 1)) && N.gt (m (i + 1)) (m (i + 2))

/-- The vertex offset `p` of the parabola through `a`, `b`, `c` (R224). -/
def vertexOffset (N : NumType) (a b c : NUM) : NUM :=
  N.div (N.mul N.half (N.sub a c)) (N.add (N.sub a (N.mul N.two b)) c)

/-- The vertex height `pm` in decibels (R224). -/
def vertexHeight (N : NumType) (a b c p : NUM) : NUM := N.sub b (N.mul (N.mul N.quarter (N.sub a c)) p)

/-- The refined frequency `pf` in hertz (R224). -/
def refinedFrequency (N : NumType) (binWidth : NUM) (i : Nat) (p : NUM) : NUM :=
  N.mul (N.add (N.ofNat i) p) binWidth

/-- `PhaseInterp(i, p)` (R225): plain interpolation towards bin `i+1` or `i-1`, without unwrapping. -/
def phaseInterp (N : NumType) (phs : List NUM) (i : Nat) (p : NUM) : NUM :=
  let here := readAt phs i
  if N.ge p N.zero then N.add here (N.mul p (N.sub (readAt phs (i + 1)) here))
  else N.add here (N.mul (N.sub N.zero p) (N.sub (readAt phs (i - 1)) here))

/-- The linear amplitude `pow10(pm / 20)` (R228). -/
def linearAmplitude (N : NumType) (pm : NUM) : NUM := N.pow10 (N.div pm N.twenty)

/-- The record of a peak at bin `i` (R221, R228). -/
def peakRecord (N : NumType) (mag phs : List NUM) (binWidth : NUM) (i : Nat) : Peak :=
  let a := readAt mag (i - 1)
  let b := readAt mag i
  let c := readAt mag (i + 1)
  let p := vertexOffset N a b c
  let pm := vertexHeight N a b c p
  { bin := u32 i, off := p, mag := pm, amp := linearAmplitude N pm, frq := refinedFrequency N binWidth i p,
    phs := phaseInterp N phs i p }

/-- `Guard(p, pm, pf, pp, am)` (R226): all finite and `0 <= pf <= nyquist`. -/
def peakGuard (N : NumType) (nyquist : NUM) (k : Peak) : Bool :=
  N.isFinite k.off && N.isFinite k.mag && N.isFinite k.frq && N.isFinite k.phs && N.isFinite k.amp
  && N.le N.zero k.frq && N.le k.frq nyquist

/-- `pow10((pm - m) / 20) - 1`: by how much the peak exceeds a neighbour, as a fraction of it (R227). -/
def relativeExcess (N : NumType) (pm m : NUM) : NUM :=
  N.sub (N.pow10 (N.div (N.sub pm m) N.twenty)) N.one

/-- `Significant(i, pm)` (R227): both neighbours exceeded by more than the threshold. -/
def significant (N : NumType) (mag pthr : List NUM) (i : Nat) (pm : NUM) : Bool :=
  N.gt (relativeExcess N pm (readAt mag (i - 1))) (readAt pthr i)
  && N.gt (relativeExcess N pm (readAt mag (i + 1))) (readAt pthr i)

/-- The peak at bin `i`, if there is one that survives the guard and the filter (R221). -/
def peakAt (s : State) (i : Nat) : Option Peak :=
  let N := s.num
  let k := peakRecord N s.mag s.phs (s.act.binWidth N) i
  if candidate N s.mag s.mthr i && peakGuard N (s.act.nyquist N) k && significant N s.mag s.pthr i k.mag then some k
  else none

/-- The scan range `2 .. B-3`, empty if `B < 5` (R221). -/
def scanBins (bins : Nat) : List Nat := (List.range (bins - 4)).map (· + 2)

/-- The peak list rebuilt from the arrays, in ascending bin order (R221). -/
def findPeaks (s : State) : List Peak := (scanBins s.act.numBins).filterMap (peakAt s)

/-- `PEAKS` (R221): no mode precondition. -/
def execPeaks (s : State) : Result :=
  runChecked (readyChecks s) s (respondOk (u32 (findPeaks s).length) { s with pk := findPeaks s })

/-- `GETPK` (R229). -/
def execGetpk (field : PkField) (idx : BitVec 20) (s : State) : Result :=
  runChecked (readyChecks s ++ [indexCheck idx s.pkCount]) s
    (respondOk (pkField (s.peak idx.toNat) field) s)

end Sys2Proof.Machine
end

