-- ==== Sys2Proof/Machine/RingStream.lean ====
section
/-! DEFINITION. The sample streaming commands `WRS`, `RDO` (41_ring_stream.md). -/

namespace Sys2Proof.Machine

/-- The Operation of `WRS` on the state (R141). -/
def pushSample (x : NUM) (s : State) : State :=
  { s with inRing := s.inRing.write x, count := satInc s.count, frdy := s.frdy || frameReady s }

/-- `WRS` (R141): the sample is stored unchanged; the result is 1 exactly when the frame became ready. -/
def execWrs (x : NUM) (s : State) : Result :=
  runChecked (readyChecks s) s (respondOk (flagWord (frameReady s)) (pushSample x s))

/-- `RDO` (R143): the value under `out_r`, whether or not anything new was written. -/
def execRdo (s : State) : Result :=
  runChecked (readyChecks s) s (respondOk s.outRing.front { s with outRing := s.outRing.pop })

end Sys2Proof.Machine
end

