-- ==== Sys2Proof/Machine/Dispatch.lean ====
section
/-! DEFINITION. One arm per command: the meaning it calls (30_encoding.md R95). -/

namespace Sys2Proof.Machine

def exec (i : Instr) (s : State) : Host.Outcome State Fault Refusal :=
  match i with
  -- configuration and registers (40_config_registers.md)
  | .nop => Sys2Proof.Machine.execNop s
  | .init => Sys2Proof.Machine.execInit s
  | .rdreg r => Sys2Proof.Machine.execRdreg r s
  | .wrreg r v => Sys2Proof.Machine.execWrreg r v s
  -- streaming (41_ring_stream.md)
  | .wrs x => Sys2Proof.Machine.execWrs x s
  | .rdo => Sys2Proof.Machine.execRdo s
  -- transform (42_transform.md)
  | .xfmFft => Sys2Proof.Machine.execXfmFft s
  | .xfmIfft => Sys2Proof.Machine.execXfmIfft s
  -- per-bin access (43_bin_access.md)
  | .getbin a k => Sys2Proof.Machine.execGetbin a k s
  | .setbin a k v => Sys2Proof.Machine.execSetbin a k v s
  -- wavetable (44_wavetable.md)
  | .wtgen force kind => Sys2Proof.Machine.execWtgen force kind s
  | .getwt k => Sys2Proof.Machine.execGetwt k s
  -- oscillators (45_oscillator.md)
  | .ostart j a f p => Sys2Proof.Machine.execOstart j a f p s
  | .ostop j => Sys2Proof.Machine.execOstop j s
  | .oupd j a f p n => Sys2Proof.Machine.execOupd j a f p n s
  | .onext j => Sys2Proof.Machine.execOnext j s
  | .oact on j => Sys2Proof.Machine.execOact on j s
  | .getosc field j => Sys2Proof.Machine.execGetosc field j s
  -- peaks (46_peak_detector.md)
  | .peaks => Sys2Proof.Machine.execPeaks s
  | .getpk field k => Sys2Proof.Machine.execGetpk field k s
  -- mixer (47_mixer.md)
  | .rds => Sys2Proof.Machine.execRds s

end Sys2Proof.Machine
end

