-- ==== Sys2Proof/Machine/Step.lean ====
section
/-! DEFINITION. One step: the block takes one event off its command port (00_scope.md R15, 30_encoding.md R90,
70_reset_and_hazards.md R310; log entries 9 and 10). -/

namespace Sys2Proof.Machine

/-- Execute a packet: a legal one runs its command, an illegal one raises `E_ILLEGAL` (30_encoding.md R98). -/
def runPacket (words : List Word) (s : State) : Host.Outcome State Fault Refusal :=
  match decode words with
  | .ok i => exec i s
  | .error _ => .next (raiseError .illegal s)

/-- One step of the block. -/
def step (s : State) : Host.Outcome State Fault Refusal :=
  match fetch s with
  | none => .next (idle s)
  | some (.reset, s') => .next (applyReset s')
  | some (.packet words, s') => runPacket words s'

/-- `s` with the packet of an opcode-table word next on the port. -/
def State.withFetchWord (s : State) (nbits w : Nat) : State :=
  { s with port := .packet (tableWords nbits w) :: s.port }

end Sys2Proof.Machine
end

