-- ==== Sys2Proof/Machine/Firmware.lean ====
section
/-! DEFINITION. The host agent (49_host_track_firmware.md): the track pool, the track life cycle, the breakpoint
pass and one hop that issues commands to the block. It is not block state (00_scope.md R5): it is the second agent
of R15, here so that the duties the block places on its host can be stated. A model of the block alone replaces
it by an arbitrary command stream. What the source leaves to the host is an argument or a field (log entry 19). -/

namespace Sys2Proof.Firmware

open Sys2Proof.Machine

/-! ## Firmware state (R250 to R252) -/

/-- The status of a track (R251). -/
inductive TrackStatus where
  | dead | birth | alive | dying
  deriving DecidableEq, Repr

/-- A track record (R251). -/
structure Track where
  amplitude : NUM
  frequency : NUM
  phase : NUM
  aliveFrames : Nat
  birthFrames : Nat
  dyingFrames : Nat
  status : TrackStatus
  deriving DecidableEq, Repr

/-- An ephemeral record of one detected peak (R252). `distanceSquared` is scratch of the ranking; what it holds is the
model's choice (`readPeak`, `markAssigned`; log entry 19). -/
structure TrackMatch where
  binIndex : Word
  isDetected : Bool
  isAssigned : Bool
  amplitude : NUM
  frequency : NUM
  phase : NUM
  distanceSquared : NUM
  deriving DecidableEq, Repr

/-- The weights of the three terms of the distance of R258, a parameter of the host agent (93 U12, 91 N20). -/
structure Weights where
  amplitude : NUM
  frequency : NUM
  phase : NUM
  deriving DecidableEq, Repr

/-- Every weight 1: the three terms are summed as R258 writes them. -/
def Weights.unit (N : NumType) : Weights := { amplitude := N.one, frequency := N.one, phase := N.one }

/-- What the host keeps per block instance (R250, R259, R262). -/
structure HostState where
  /-- `trk[0 .. M-1]`, slot `j` driving oscillator slot `j`; `HostState.fits` ties its length to the block's `M` -/
  pool : List Track
  /-- `trackBirth`, frames -/
  trackBirth : Nat
  /-- `trackDeath`, frames -/
  trackDeath : Nat
  /-- the distance weights -/
  weights : Weights
  /-- the per-hop cap on spawns, which "defaults to no cap" (R259): `none` is no cap -/
  spawnBudget : Option Nat := none
  /-- how many evictions there have been, the argument of `rng` (R262) -/
  evictions : Nat := 0
  deriving DecidableEq, Repr

/-- A track before its first use: `Dead` (R251).

DESIGN CHOICE (log entry 19): R251 gives only "Initial: `Dead`", and a `Dead` track "holds no valid amplitude/frequency".
The `+0` in the three parameters and the 0 in the three counters are the model's; `Track.begin` sets all six before
anything reads them. -/
def Track.initial (N : NumType) : Track :=
  { amplitude := N.zero, frequency := N.zero, phase := N.zero, aliveFrames := 0, birthFrames := 0,
    dyingFrames := 0, status := .dead }

/-- The host before its first hop: `m` tracks, all `Dead`, every weight 1, no cap on spawns, no eviction yet
(R250, R251, R259). -/
def HostState.initial (N : NumType) (m birth death : Nat) : HostState :=
  { pool := List.replicate m (Track.initial N), trackBirth := birth, trackDeath := death, weights := Weights.unit N }

/-- The host of a block that `INIT` has just configured: one track for each of its `M` slots (R250; 10_state.md R34,
R47). -/
def HostState.start (birth death : Nat) (s : State) : HostState := HostState.initial s.num s.act.slots birth death

/-- The pool is the one R250 gives the host of this block: `trk[0 .. M-1]`. -/
def HostState.fits (h : HostState) (s : State) : Prop := h.pool.length = s.act.slots

/-! ## Track state machine (R253 to R255) -/

/-- `init()` from a peak: `Birth`, counters 0, the peak's parameters (R253, R255). -/
def Track.begin (m : TrackMatch) : Track :=
  { amplitude := m.amplitude, frequency := m.frequency, phase := m.phase, aliveFrames := 0, birthFrames := 0,
    dyingFrames := 0, status := .birth }

/-- `update(matched)` with the thresholds `trackBirth`, `trackDeath` (R253, R255). -/
def Track.update (birth death : Nat) (isMatched : Bool) (t : Track) : Track :=
  match t.status, isMatched with
  | .dead, _ => t
  | .birth, true =>
    { t with birthFrames := t.birthFrames + 1, status := if birth ≤ t.birthFrames + 1 then .alive else .birth }
  | .birth, false => { t with status := .dead }
  | .alive, true => { t with aliveFrames := t.aliveFrames + 1 }
  | .alive, false => { t with dyingFrames := 0, status := .dying }
  | .dying, true => { t with dyingFrames := 0, status := .alive }
  | .dying, false =>
    { t with dyingFrames := t.dyingFrames + 1, status := if death ≤ t.dyingFrames + 1 then .dead else .dying }

/-- The parameters of the peak a track was matched to (R260). -/
def Track.take (m : TrackMatch) (t : Track) : Track :=
  { t with amplitude := m.amplitude, frequency := m.frequency, phase := m.phase }

/-- The audible set: `Alive` or `Dying` (R254). -/
def Track.audible (t : Track) : Bool := t.status == .alive || t.status == .dying

/-! ## Step 4: candidate search, ranking, assignment (R257, R258) -/

/-- `|a - b|` -/
def distance (N : NumType) (a b : NUM) : NUM :=
  let d := N.sub a b
  if N.lt d N.zero then N.neg d else d

/-- `Δamplitude² + Δfrequency² + Δphase²`, each term times its weight (R258, 93 U12). -/
def distanceSquared (N : NumType) (w : Weights) (t : Track) (m : TrackMatch) : NUM :=
  let term := fun weight d : NUM => N.mul weight (N.mul d d)
  N.add (N.add (term w.amplitude (N.sub m.amplitude t.amplitude)) (term w.frequency (N.sub m.frequency t.frequency)))
    (term w.phase (N.sub m.phase t.phase))

/-- An unassigned peak within the match window of a track (R257). -/
def isCandidate (N : NumType) (matchWindow : NUM → NUM) (t : Track) (m : TrackMatch) : Bool :=
  !m.isAssigned && N.le (distance N m.frequency t.frequency) (matchWindow t.frequency)

/-- Peak `m` ranks strictly before peak `n` for a track: by frequency difference, then by full distance
(R258). -/
def ranksBefore (N : NumType) (w : Weights) (t : Track) (m n : TrackMatch) : Bool :=
  let dm := distance N m.frequency t.frequency
  let dn := distance N n.frequency t.frequency
  N.lt dm dn || (N.eq dm dn && N.lt (distanceSquared N w t m) (distanceSquared N w t n))

/-- The better of the best index so far and the candidate at `k`; a tie keeps the lower index (R258). -/
def betterOf (N : NumType) (w : Weights) (t : Track) (ms : List TrackMatch) (best : Option Nat) (k : Nat) :
    Option Nat :=
  match best with
  | none => some k
  | some b =>
    match ms[k]?, ms[b]? with
    | some m, some n => if ranksBefore N w t m n then some k else some b
    | _, _ => some b

/-- The single best unassigned peak for a track (R258). -/
def bestPeak (N : NumType) (w : Weights) (matchWindow : NUM → NUM) (t : Track) (ms : List TrackMatch) : Option Nat :=
  ((List.range ms.length).filter fun k => (ms[k]?.map (isCandidate N matchWindow t)).getD false).foldl
    (betterOf N w t ms) none

/-- Peak `k` marked as assigned to a track (R258).

DESIGN CHOICE (log entry 19): R252 calls `distanceSquared` scratch and no rule says in which records it is filled. The
ranking computes the distances it compares, and only the winning record keeps its own. -/
def markAssigned (N : NumType) (w : Weights) (t : Track) (k : Nat) (ms : List TrackMatch) : List TrackMatch :=
  ms.modify k fun m => { m with isAssigned := true, distanceSquared := distanceSquared N w t m }

/-- Step 4 in stable track order: for each slot the peak it claimed, and the peaks with their marks. -/
def assign (N : NumType) (w : Weights) (matchWindow : NUM → NUM) :
    List Track → List TrackMatch → List (Option Nat) × List TrackMatch
  | [], ms => ([], ms)
  | t :: ts, ms =>
    match if t.status = .dead then none else bestPeak N w matchWindow t ms with
    | none =>
      let r := assign N w matchWindow ts ms
      (none :: r.1, r.2)
    | some k =>
      let r := assign N w matchWindow ts (markAssigned N w t k ms)
      (some k :: r.1, r.2)

/-! ## Step 5: spawn (R259, R262, R263) -/

/-- The commands that start a spawned track: the slot is stopped first where it was evicted (R261, R263). -/
def spawnCommands (evicted : Bool) (j : Nat) (m : TrackMatch) : List Instr :=
  let slot := BitVec.ofNat 20 j
  (if evicted then [.ostop slot] else []) ++ [.ostart slot m.amplitude m.frequency m.phase]

/-- What step 5 carries from peak to peak. -/
structure SpawnState where
  pool : List Track
  evictions : Nat
  /-- the slots spawned into this hop -/
  spawned : List Nat
  commands : List Instr
  deriving DecidableEq, Repr

/-- Spawn one peak: into the lowest `Dead` slot, else into the slot `rng` returns (R259). -/
def spawnOne (rng : Nat → Nat) (st : SpawnState) (m : TrackMatch) : SpawnState :=
  match st.pool.findIdx? (fun t => t.status == .dead) with
  | some j =>
    { st with
      pool := st.pool.set j (Track.begin m)
      spawned := j :: st.spawned
      commands := st.commands ++ spawnCommands false j m }
  | none =>
    let j := rng st.evictions % st.pool.length
    { pool := st.pool.set j (Track.begin m)
      evictions := st.evictions + 1
      spawned := j :: st.spawned
      commands := st.commands ++ spawnCommands true j m }

/-- The unassigned peaks in ascending index, at most the budget (R259). -/
def unassigned (budget : Option Nat) (ms : List TrackMatch) : List TrackMatch :=
  let remaining := ms.filter fun m => m.isDetected && !m.isAssigned
  match budget with
  | none => remaining
  | some n => remaining.take n

/-! ## Steps 6 and 7: decay and oscillator synchronisation (R260, R261, R264) -/

/-- The track of one slot after step 6: a spawned track stays, a matched one is updated and takes the peak's
parameters, a missed one decays (R260). -/
def settle (h : HostState) (ms : List TrackMatch) (spawned : Bool) (claim : Option Nat) (t : Track) : Track :=
  if spawned then t
  else
    match claim.bind (fun k => ms[k]?) with
    | some m => (t.update h.trackBirth h.trackDeath true).take m
    | none => t.update h.trackBirth h.trackDeath false

/-- Step 7 for one slot that was not spawned into (R261): a matched track glides over one hop of `H` samples, a track
that became `Dead` is stopped. `before` and `after` are the track before and after step 6. -/
def syncCommands (hopSize : Word) (j : Nat) (isMatched : Bool) (before after : Track) : List Instr :=
  let slot := BitVec.ofNat 20 j
  if isMatched then [.oupd slot after.amplitude after.frequency after.phase hopSize]
  else if before.status != .dead && after.status == .dead then [.ostop slot]
  else []

/-- The end-of-hop activity update of one slot that was not spawned into (R264): `OACT ON` on `Birth → Alive`. The
`OSTOP` on `→ Dead` is the one that step 7 sends (R261), and a slot spawned into ends the hop stopped or started, not
active (R263). -/
def activityCommands (j : Nat) (before after : Track) : List Instr :=
  if before.status == .birth && after.status == .alive then [.oact true (BitVec.ofNat 20 j)] else []

/-- Steps 4 to 7 of the breakpoint pass and the activity update after them (R257 to R264): the host's new state and the
commands it issues. Step 7 goes first through the slots that were not spawned into, then through the spawns; every
`OACT` comes after it. -/
def breakpoint (N : NumType) (matchWindow : NUM → NUM) (rng : Nat → Nat) (hopSize : Word) (h : HostState)
    (peaks : List TrackMatch) : HostState × List Instr :=
  let (claims, ms) := assign N h.weights matchWindow h.pool peaks
  let st := (unassigned h.spawnBudget ms).foldl (spawnOne rng)
    { pool := h.pool, evictions := h.evictions, spawned := [], commands := [] }
  let claim := fun j => (claims[j]?).join
  let pool := st.pool.mapIdx fun j t => settle h ms (st.spawned.contains j) (claim j) t
  let before := fun j => st.pool.getD j (Track.initial N)
  let after := fun j => pool.getD j (Track.initial N)
  let kept := (List.range pool.length).filter fun j => !st.spawned.contains j
  let sync := kept.flatMap fun j => syncCommands hopSize j (claim j).isSome (before j) (after j)
  let activity := kept.flatMap fun j => activityCommands j (before j) (after j)
  ({ h with pool := pool, evictions := st.evictions }, sync ++ st.commands ++ activity)

/-! ## One hop (R256) -/

/-- Issue a command to the block. -/
def issue (i : Instr) (s : State) : State :=
  match exec i s with
  | .next t => t
  | _ => s

/-- Issue commands in order. -/
def issueAll (is : List Instr) (s : State) : State := is.foldl (fun s i => issue i s) s

/-- The result word of the last response. -/
def lastResult (s : State) : Word := (s.response.map Response.result).getD 0

/-- Build the record of peak `k` from `GETPK` reads (R252).

DESIGN CHOICE (log entry 19): the four reads go out in the order `BIN`, `AMP`, `FRQ`, `PHS`, peak by peak, and the
amplitude is the linear `AMP`, not multiplied by `normFactor` (R252, 47_mixer.md R242; 91 N4, N24). No rule gives the
value of `distanceSquared` in a fresh record; it is `+0`, and nothing reads it. -/
def readPeak (k : Nat) (s : State) : TrackMatch × State :=
  let idx := BitVec.ofNat 20 k
  let s1 := issue (.getpk .bin idx) s
  let s2 := issue (.getpk .amp idx) s1
  let s3 := issue (.getpk .frq idx) s2
  let s4 := issue (.getpk .phs idx) s3
  ({ binIndex := lastResult s1, isDetected := true, isAssigned := false, amplitude := lastResult s2,
     frequency := lastResult s3, phase := lastResult s4, distanceSquared := s.num.zero }, s4)

/-- The records of peaks `k .. k + n - 1`. -/
def readPeaks : Nat → Nat → State → List TrackMatch × State
  | 0, _, s => ([], s)
  | n + 1, k, s =>
    let (m, s1) := readPeak k s
    let (ms, s2) := readPeaks n (k + 1) s1
    (m :: ms, s2)

/-- The frame sequence of one hop (R256): `XFM.FFT`, `PEAKS`, `GETPK` reads, the breakpoint pass, `XFM.IFFT`.

DESIGN CHOICE (log entry 19): R261 glides over one hop `H` and no rule says where the host takes `H` from. This host
reads it from the block, by one `RDREG HOPSIZE` between the `GETPK` reads and the breakpoint pass. R242 lets the host
write "whatever factor it wants once per hop" to `MIXGAIN` and gives no formula (91 N18): this host has no fade factor
and writes neither `MIXGAIN` nor `MIXCTL`. It issues the `XFM.IFFT` and no `RDO`: it does not use the output ring, which
R256 and R243 leave to it. -/
def hop (matchWindow : NUM → NUM) (rng : Nat → Nat) (h : HostState) (s : State) : HostState × State :=
  let s1 := issue .peaks (issue .xfmFft s)
  let (peaks, s2) := readPeaks (lastResult s1).toNat 0 s1
  let s3 := issue (.rdreg .hopSize) s2
  let (h', commands) := breakpoint s.num matchWindow rng (lastResult s3) h peaks
  (h', issue .xfmIfft (issueAll commands s3))

/-- One input sample: a `WRS`, and the frame sequence where its result is 1 (R256).

DESIGN CHOICE (log entry 19): whether a host issues one `RDS` per `WRS` is its own choice (47_mixer.md R244). This one
issues none: the rendering side is left to the caller, who may issue `RDS` between any two samples. -/
def onSample (matchWindow : NUM → NUM) (rng : Nat → Nat) (x : NUM) (h : HostState) (s : State) :
    HostState × State :=
  let s1 := issue (.wrs x) s
  if lastResult s1 = 1 then hop matchWindow rng h s1 else (h, s1)

end Sys2Proof.Firmware
end

