-- ==== Sys2Proof/Machine/Ideal.lean ====
section
/-! DEFINITION. The ideal reading (00_scope.md R14): what the transform contract and the peak interpolation say in
real arithmetic. The machine does not compute with these; they are what 42_transform.md R160, R161 and
46_peak_detector.md R224 promise of it "in real arithmetic". -/

namespace Sys2Proof.Ideal

/-- `re`, `im` are the forward transform of the `P` real values `x` (R160): unnormalised, negative exponent. -/
def IsForward (P : ℕ) (x re im : ℕ → ℝ) : Prop :=
  ∀ k ≤ P / 2,
    re k = ∑ n ∈ Finset.range P, x n * Real.cos (2 * Real.pi * k * n / P) ∧
    im k = -∑ n ∈ Finset.range P, x n * Real.sin (2 * Real.pi * k * n / P)

/-- `y` is the inverse transform of `re`, `im` (R161); the imaginary parts of bins 0 and `P/2` are ignored. -/
def IsInverse (P : ℕ) (re im y : ℕ → ℝ) : Prop :=
  ∀ n < P,
    y n = 1 / P * (re 0 + (-1) ^ n * re (P / 2) +
      2 * ∑ k ∈ Finset.Ico 1 (P / 2),
        (re k * Real.cos (2 * Real.pi * k * n / P) - im k * Real.sin (2 * Real.pi * k * n / P)))

variable {K : Type} [Field K]

/-- The second difference `d = (a - 2b) + c` (R224). -/
def secondDifference (a b c : K) : K := a - 2 * b + c

/-- The vertex offset `p = (0.5 (a - c)) / d` (R224). -/
def vertexOffset (a b c : K) : K := 1 / 2 * (a - c) / secondDifference a b c

/-- The vertex height `pm = b - (0.25 (a - c)) p` (R224). -/
def vertexHeight (a b c : K) : K := b - 1 / 4 * (a - c) * vertexOffset a b c

/-- The parabola through `(-1, a)`, `(0, b)`, `(1, c)` (R224). -/
def parabola (a b c x : K) : K := b + (c - a) / 2 * x + secondDifference a b c / 2 * x ^ 2

end Sys2Proof.Ideal
end

