-- ==== Sys2Proof/Safety.lean ====
section
/-! DEFINITION. What counts as a safe state: the legal parameters of an implementation (00_scope.md R7), the invariants
of 10_state.md R60, and the lengths of the arrays (10_state.md R47). -/

namespace Sys2Proof

/-- What the operations of R12 promise of any numeric type: the comparisons are those of a linear order on the values
that are numbers, which are the words that compare as `<=` to themselves, and `ofNat`, `floor` and halving agree with
it, at table indices. Binary32 is lawful (`F32.lawful` in `Laws/Rounding.lean`). Log entry 1. -/
structure NumType.Lawful (N : NumType) : Prop where
  le_number : ∀ a b, N.le a b = true → N.le a a = true ∧ N.le b b = true
  le_total : ∀ a b, N.le a a = true → N.le b b = true → N.le a b = true ∨ N.le b a = true
  le_trans : ∀ a b c, N.le a b = true → N.le b c = true → N.le a c = true
  lt_eq : ∀ a b, N.lt a b = (N.le a b && !N.le b a)
  eq_eq : ∀ a b, N.eq a b = (N.le a b && N.le b a)
  finite_number : ∀ a, N.isFinite a = true → N.le a a = true
  zero_finite : N.isFinite N.zero = true
  ofNat_pos : ∀ n, 1 ≤ n → n ≤ 2 ^ 20 → N.lt N.zero (N.ofNat n) = true
  half_nonneg : ∀ a, N.isFinite a = true → N.lt N.zero a = true → N.le N.zero (N.div a N.two) = true
  floor_index : ∀ a n, n ≤ 2 ^ 20 → N.le N.zero a = true → N.lt a (N.ofNat n) = true →
    0 ≤ N.floor a ∧ N.floor a < (n : Int)

/-- The legal values of the parameters (00_scope.md R7). That 20 index bits cover every index, the bins of a padded frame
included, is what 30_encoding.md R91 says of the bounds. Log entry 26. -/
structure Params.Legal (p : Params) : Prop where
  num : p.num.ops.Lawful
  wsPow2 : Machine.isPow2 p.wsMax = true
  wsMin : 4 ≤ p.wsMax
  wsIndex : p.wsMax < 2 ^ 20
  tsMin : 2 ≤ p.tsMax
  tsIndex : p.tsMax < 2 ^ 20
  noscMin : 1 ≤ p.noscMax
  noscIndex : p.noscMax ≤ 2 ^ 20

end Sys2Proof

namespace Sys2Proof.Machine

/-- The lengths INIT gives the arrays for a geometry, and the cursors in range (10_state.md R48 to R58). -/
structure ArraysFit (s : State) : Prop where
  inBuf : s.inRing.buf.length = s.act.size
  outBuf : s.outRing.buf.length = s.act.size
  win : s.win.length = s.act.size
  specRe : s.specRe.length = s.act.numBins
  specIm : s.specIm.length = s.act.numBins
  amp : s.amp.length = s.act.numBins
  mag : s.mag.length = s.act.numBins
  phs : s.phs.length = s.act.numBins
  frq : s.frq.length = s.act.numBins
  mthr : s.mthr.length = s.act.numBins
  pthr : s.pthr.length = s.act.numBins
  wt : s.wt.length = s.act.tabLen + 1
  osc : s.osc.length = s.act.slots

/-- No array and no configuration exists (10_state.md R24, R47). -/
structure ArraysVoid (s : State) : Prop where
  act : s.act = Active.voidIn s.num
  appetite : s.appetite = 0
  count : s.count = 0
  inRing : s.inRing = Ring.absent
  outRing : s.outRing = Ring.absent
  win : s.win = []
  specRe : s.specRe = []
  specIm : s.specIm = []
  amp : s.amp = []
  mag : s.mag = []
  phs : s.phs = []
  frq : s.frq = []
  mthr : s.mthr = []
  pthr : s.pthr = []
  pk : s.pk = []
  wt : s.wt = []
  wtKind : s.wtKind = 0
  osc : s.osc = []

/-- A geometry that `INIT` accepts (10_state.md R60, 40_config_registers.md R123). -/
structure GeometryLegal (p : Params) (a : Active) : Prop where
  sizePow2 : isPow2 a.size = true
  sizeMin : 4 ≤ a.size
  sizeMax : a.size ≤ p.wsMax
  hopPow2 : isPow2 a.hopFactor.toNat = true
  hopMax : a.hopFactor.toNat ≤ a.size
  tabMin : 2 ≤ a.tabLen
  tabMax : a.tabLen ≤ p.tsMax
  slotsMin : 1 ≤ a.slots
  slotsMax : a.slots ≤ p.noscMax
  rate : p.num.ops.isFinite a.sampleRate = true ∧ p.num.ops.gt a.sampleRate p.num.ops.zero = true

/-- The phase accumulator is a position in the table: `0 <= ph < ofNat(T)` (45_oscillator.md R210). -/
def phaseInTable (N : NumType) (t : Nat) (ph : NUM) : Bool := N.le N.zero ph && N.lt ph (N.ofNat t)

/-- What R60 demands of a slot's amplitude and frequency: the current and the target values finite, the frequencies in
`[0, nyquist]`. -/
def Osc.inRange (N : NumType) (nyquist : NUM) (o : Osc) : Bool :=
  N.isFinite o.amp && freqLegal N nyquist o.freq && N.isFinite o.tAmp && freqLegal N nyquist o.tFreq

/-- Every slot is in the ranges of R60. The command rules keep this except where the rounded or overflowing addition of
an intermediate glide step leaves them (45_oscillator.md R206, R209: "in real arithmetic"; log entry 16); `Inv` holds
what is kept without exception. -/
def SlotsInRange (s : State) : Prop := ∀ o ∈ s.osc, o.inRange s.num (s.act.nyquist s.num) = true

/-- Where no glide is in progress the slot holds its targets; `OSTOP` in the middle of a glide keeps the frequency it
interrupts, silent (45_oscillator.md R202 to R206). -/
def Osc.settled (N : NumType) (o : Osc) : Bool :=
  o.stepsLeft != 0 || (o.amp == o.tAmp && (o.freq == o.tFreq || o.amp == N.zero))

/-- The invariants of R60 while configured, with the ranges of `amp` and `freq` as far as every command keeps them
(`targets`, `settled`; the rest is `SlotsInRange`, and R60 in full is `FullInv`; log entry 16). -/
structure ConfiguredInv (s : State) : Prop where
  geometry : GeometryLegal s.params s.act
  fits : ArraysFit s
  inW : s.inRing.w < s.act.size
  inR : s.inRing.r < s.act.size
  outW : s.outRing.w < s.act.size
  outR : s.outRing.r < s.act.size
  appetite : s.appetite = s.act.windowSize ∨ s.appetite = u32 s.act.hopSize
  spectrum : s.mode = .spectrum → s.appetite = u32 s.act.hopSize
  peaks : s.pkCount ≤ s.act.pkCap
  table : s.wtValid = true
  guardPoint : readAt s.wt s.act.tabLen = readAt s.wt 0
  phase : ∀ o ∈ s.osc, phaseInTable s.num s.act.tabLen o.ph = true
  targets : ∀ o ∈ s.osc, s.num.isFinite o.tAmp = true ∧ freqLegal s.num (s.act.nyquist s.num) o.tFreq = true
  settled : ∀ o ∈ s.osc, o.settled s.num = true

/-- The invariants while `UNCONF` (10_state.md R24, R47, R61, 60_exceptions.md R289). -/
structure UnconfInv (s : State) : Prop where
  void : ArraysVoid s
  halt : s.halt = false
  frdy : s.frdy = false
  specDirty : s.specDirty = false
  wtValid : s.wtValid = false
  norm : s.maxAmp = s.num.zero ∧ s.normFactor = s.num.one ∧ s.denormFactor = s.num.one

/-- The invariant between commands (10_state.md R60), of an implementation with legal parameters (00_scope.md R7). -/
structure Inv (s : State) : Prop where
  params : s.params.Legal
  unconf : s.mode = .unconf → UnconfInv s
  configured : s.mode ≠ .unconf → ConfiguredInv s

/-- R60 in full: the invariant with the ranges of every slot, glides in progress included. Reset and `INIT` establish it
and every command keeps it but an intermediate glide step that leaves the ranges (SlotRangesKept; log entry 16). -/
structure FullInv (s : State) : Prop where
  inv : Inv s
  slots : SlotsInRange s

/-- R60 clause by clause, as the check it lets a model make after every step. `MODE = SPECTRUM` shows that a transform
has run since `INIT` by the appetite that `XFM.FFT` leaves. A state with `FullInv` passes
(`invariantCheck_of_fullInv`). -/
def invariantCheck (s : State) : Bool :=
  let a := s.act
  s.mode == .unconf
  || (isPow2 a.size && isPow2 a.hopFactor.toNat
    && decide (1 ≤ a.hopSize) && decide (a.hopSize ≤ a.size)
    && (a.paddedSize == a.size || a.paddedSize == 2 * a.size)
    && a.numBins == a.paddedSize / 2 + 1 && decide (3 ≤ a.numBins)
    && decide (s.inRing.w < a.size) && decide (s.inRing.r < a.size)
    && decide (s.outRing.w < a.size) && decide (s.outRing.r < a.size)
    && (s.appetite == a.windowSize || s.appetite == u32 a.hopSize)
    && decide (s.pkCount ≤ a.pkCap)
    && s.wtValid && readAt s.wt a.tabLen == readAt s.wt 0
    && s.osc.all (fun o => phaseInTable s.num a.tabLen o.ph && o.inRange s.num (a.nyquist s.num))
    && (s.mode != .spectrum || s.appetite == u32 a.hopSize))

/-- Memory well-formedness, as a check: the arrays are exactly those the mode and the geometry call for
(10_state.md R47). `Laws/Arrays.lean` relates it to `ArraysVoid` and `ArraysFit`. -/
def Memory.wf (s : State) : Bool :=
  if s.mode = .unconf then
    s.act == Active.voidIn s.num && s.appetite == 0 && s.count == 0
    && s.inRing == Ring.absent && s.outRing == Ring.absent
    && s.win == [] && s.specRe == [] && s.specIm == [] && s.amp == [] && s.mag == [] && s.phs == []
    && s.frq == [] && s.mthr == [] && s.pthr == [] && s.pk == [] && s.wt == [] && s.wtKind == 0 && s.osc == []
  else
    s.inRing.buf.length == s.act.size && s.outRing.buf.length == s.act.size && s.win.length == s.act.size
    && s.specRe.length == s.act.numBins && s.specIm.length == s.act.numBins
    && s.amp.length == s.act.numBins && s.mag.length == s.act.numBins && s.phs.length == s.act.numBins
    && s.frq.length == s.act.numBins && s.mthr.length == s.act.numBins && s.pthr.length == s.act.numBins
    && s.wt.length == s.act.tabLen + 1 && s.osc.length == s.act.slots

/-- A safe step: it answers a next state and keeps the invariant (60_exceptions.md R293). -/
def SafeStep (s : State) : Prop := ∃ t, step s = .next t ∧ (Inv s → Inv t)

/-! ## Errors, read off 60_exceptions.md command by command and cause by cause -/

/-- The commands that execute with `HALT = 1` (R288 step 2). -/
def runsHalted : Instr → Bool
  | .nop | .init | .rdreg _ => true
  | _ => false

/-- The commands that execute while `UNCONF` (R288 step 3). -/
def runsUnconfigured : Instr → Bool
  | .nop | .init | .rdreg _ | .wrreg _ _ => true
  | _ => false

/-- The mode a transform asks for is not the mode the block is in (R288 step 4). -/
def wrongMode (s : State) : Instr → Bool
  | .xfmFft => s.mode != .waveform
  | .xfmIfft => s.mode != .spectrum
  | _ => false

/-- The target is read-only (R288 step 5). -/
def readOnlyTarget : Instr → Bool
  | .wrreg r _ => decide (0x20 ≤ r.num.toNat)
  | .setbin a _ _ => a == .frq || a == .win
  | _ => false

/-- The element index is not below the length of its array (R288 step 6, 20_memory.md R73). -/
def indexOutside (s : State) : Instr → Bool
  | .getbin a k => decide ((if a = .win then s.act.size else s.act.numBins) ≤ k.toNat)
  | .setbin _ k _ => decide (s.act.numBins ≤ k.toNat)
  | .getwt k => decide (s.act.tabLen < k.toNat)
  | .ostart j _ _ _ | .ostop j | .oupd j _ _ _ _ | .onext j | .oact _ j | .getosc _ j =>
    decide (s.act.slots ≤ j.toNat)
  | .getpk _ k => decide (s.pkCount ≤ k.toNat)
  | _ => false

/-- The operand values, in packet order (R288 step 7, 45_oscillator.md R201). -/
def badOperands (s : State) : Instr → List (Bool × Status)
  | .ostart _ a f p | .oupd _ a f p _ =>
    let N := s.num
    [(!N.isFinite a, .value),
     (!(N.isFinite f && N.le N.zero f && N.le f (s.act.nyquist N)), .freq),
     (!N.isFinite p, .value)]
  | _ => []

/-- Every failure condition of a command with its code, in the order of R288. -/
def errorConditions (i : Instr) (s : State) : List (Bool × Status) :=
  [(!i.wellFormed, .illegal), (s.halt && !runsHalted i, .halted),
   (s.mode == .unconf && !runsUnconfigured i, .notInit), (wrongMode s i, .state), (readOnlyTarget i, .rdonly),
   (indexOutside s i, .index)]
  ++ badOperands s i ++ [(i == .init && !configLegal s.params s.staged, .config)]

/-- The codes besides `OK` that a command can return (R282). -/
def allowedCodes : Instr → List Status
  | .nop | .rdreg _ => [.illegal]
  | .init => [.illegal, .config]
  | .wrreg _ _ => [.illegal, .halted, .rdonly]
  | .wrs _ | .rdo | .peaks | .rds | .wtgen _ _ => [.illegal, .halted, .notInit]
  | .xfmFft | .xfmIfft => [.illegal, .halted, .notInit, .state]
  | .getbin _ _ | .getwt _ | .getpk _ _ | .getosc _ _ | .ostop _ | .onext _ | .oact _ _ =>
    [.illegal, .halted, .notInit, .index]
  | .setbin _ _ _ => [.illegal, .halted, .notInit, .rdonly, .index]
  | .ostart _ _ _ _ | .oupd _ _ _ _ _ => [.illegal, .halted, .notInit, .index, .value, .freq]

/-! ## What the statements about commands share -/

/-- The status code of a state's response. -/
def responseCode (s : State) : Option Word := s.response.map Response.status

/-- `HALT = 0` and `MODE != UNCONF`: what a command needs unless its rule says otherwise (40_config_registers.md
R120). -/
def Ready (s : State) : Prop := s.halt = false ∧ s.mode ≠ .unconf

/-- What a command that needs a ready block answers in a block that is not: `E_HALTED`, else `E_NOTINIT` (R120). -/
def ReadyGuard (i : Instr) (s : State) : Prop :=
  (s.halt = true → exec i s = .next (raiseError .halted s))
  ∧ (s.halt = false → s.mode = .unconf → exec i s = .next (raiseError .notInit s))

/-- A header word from its fields as numbers (30_encoding.md R91). -/
def hdr (opc sel idx : Nat) : Word := BitVec.ofNat 32 (opc * 2 ^ 24 + sel * 2 ^ 20 + idx)

/-- A register number that is not reserved (10_state.md R26). -/
def registerNumber (n : Nat) : Bool :=
  decide (n ≤ 0x0B) || (decide (0x10 ≤ n) && decide (n ≤ 0x11)) || (decide (0x20 ≤ n) && decide (n ≤ 0x3D))

/-- The fields and operand words that 30_encoding.md R95 and R98 admit, opcode by opcode. -/
def legalFields (opc sel idx : Nat) (args : List Word) : Bool :=
  let n := args.length
  let v := (args.getD 0 0).toNat
  ((opc == 0x00 || opc == 0x01 || opc == 0x11 || opc == 0x60 || opc == 0x70) && n == 0 && sel == 0 && idx == 0)
  || (opc == 0x10 && n == 1 && sel == 0 && idx == 0)
  || (opc == 0x02 && n == 0 && sel == 0 && registerNumber idx)
  || (opc == 0x03 && n == 1 && sel == 0 && registerNumber idx && !(idx == 0x10 && (v % 4 == 3 || decide (8 ≤ v))))
  || (opc == 0x20 && n == 0 && decide (sel < 2) && idx == 0)
  || (opc == 0x30 && n == 0 && decide (sel < 7))
  || (opc == 0x31 && n == 1 && decide (sel < 7))
  || (opc == 0x40 && n == 0 && decide (sel < 2) && idx == 0)
  || ((opc == 0x41 || opc == 0x51 || opc == 0x53) && n == 0 && sel == 0)
  || (opc == 0x50 && n == 3 && sel == 0)
  || (opc == 0x52 && n == 4 && sel == 0)
  || (opc == 0x54 && n == 0 && decide (sel < 2))
  || (opc == 0x55 && n == 0 && decide (sel < 10))
  || (opc == 0x61 && n == 0 && decide (sel < 6))

/-- A packet that is no illegal encoding (R98), in numbers, with `SINE` the one waveform kind. -/
def legalPacket : List Word → Bool
  | [] => false
  | h :: args => legalFields (h.toNat / 2 ^ 24) (h.toNat / 2 ^ 20 % 16) (h.toNat % 2 ^ 20) args

/-- The commands of balanced operation up to frame `f` (41_ring_stream.md R145): `N` samples, then for each frame the
transform, the inverse transform and `H` samples more. `x n` is sample number `n` of the input. -/
def balanced (x : Nat → NUM) (n h : Nat) : Nat → List Instr
  | 0 => (List.range n).map fun k => .wrs (x k)
  | f + 1 => balanced x n h f ++ [.xfmFft, .xfmIfft] ++ (List.range h).map fun k => .wrs (x (n + f * h + k))

/-- A peak at bin `i` that the detector records as `k` (46_peak_detector.md R223 to R228), written out. -/
def Records (s : State) (i : Nat) (k : Peak) : Prop :=
  let N := s.num
  let m := readAt s.mag
  let a := m (i - 1)
  let b := m i
  let c := m (i + 1)
  let rel := fun n : NUM => N.sub (N.pow10 (N.div (N.sub k.mag n) N.twenty)) N.one
  -- candidate (R223)
  N.gt b (readAt s.mthr i) = true ∧ N.lt (m (i - 2)) a = true ∧ N.lt a b = true ∧ N.gt b c = true
  ∧ N.gt c (m (i + 2)) = true
  -- record (R224, R225, R228)
  ∧ k.bin = u32 i
  ∧ k.off = N.div (N.mul N.half (N.sub a c)) (N.add (N.sub a (N.mul N.two b)) c)
  ∧ k.mag = N.sub b (N.mul (N.mul N.quarter (N.sub a c)) k.off)
  ∧ k.amp = N.pow10 (N.div k.mag N.twenty)
  ∧ k.frq = N.mul (N.add (N.ofNat i) k.off) (N.div s.act.sampleRate (N.ofNat s.act.paddedSize))
  ∧ k.phs = (if N.ge k.off N.zero = true
      then N.add (readAt s.phs i) (N.mul k.off (N.sub (readAt s.phs (i + 1)) (readAt s.phs i)))
      else N.add (readAt s.phs i)
        (N.mul (N.sub N.zero k.off) (N.sub (readAt s.phs (i - 1)) (readAt s.phs i))))
  -- guard (R226)
  ∧ N.isFinite k.off = true ∧ N.isFinite k.mag = true ∧ N.isFinite k.frq = true
  ∧ N.isFinite k.phs = true ∧ N.isFinite k.amp = true
  ∧ N.le N.zero k.frq = true ∧ N.le k.frq (N.div s.act.sampleRate N.two) = true
  -- significance (R227)
  ∧ N.gt (rel a) (readAt s.pthr i) = true ∧ N.gt (rel c) (readAt s.pthr i) = true

end Sys2Proof.Machine
end

