-- ==== Sys2Proof/Certificates/Slice0/Obligations.lean ====
section
/-! DEFINITION. The statements for the provers, from the numbered rules of spec/. -/

open Sys2Proof Sys2Proof.Machine Sys2Proof.Firmware

/-! ## Encoding and the step -/

/-- Every well-formed command survives encoding and decoding (30_encoding.md R90 to R95). -/
def Obligations.DecodeEncodeRoundTrip : Prop :=
  ∀ i : Instr, i.wellFormed = true → decode (encode i) = .ok i

/-- A packet that decodes is the one packet of a well-formed command: no bit of it is dropped (R94, R99). -/
def Obligations.EncodeDecodeRoundTrip : Prop :=
  ∀ (ws : List Word) (i : Instr), decode ws = .ok i → i.wellFormed = true ∧ encode i = ws

/-- R98: the packets that are illegal encodings, in numbers, and what the block does with one: `E_ILLEGAL`, result 0,
the error log, nothing else, in every mode and with `HALT = 1`. Any other packet is executed. That every `WTGEN` kind
but 0 is illegal in every implementation is the model's choice, log entry 2 (R99: more kinds are another interface
version; R191 lets an implementation define more). -/
def Obligations.IllegalEncodingsAreReported : Prop :=
  ∀ (s : State) (ws : List Word) (rest : List PortEvent), s.port = .packet ws :: rest →
    (legalPacket ws = true → ∃ i, decode ws = .ok i ∧ step s = exec i { s with port := rest }) ∧
    (legalPacket ws = false →
      step s = .next { s with
        port := rest
        errFirst := if s.errCnt = 0 then 1 else s.errFirst
        errLast := 1
        errCnt := if s.errCnt = 0xFFFFFFFF#32 then s.errCnt else s.errCnt + 1
        response := some { status := 1, result := 0 } })

/-- Packets written out by hand from R91 and R95 decode to the commands they stand for: every family, every register
number of R27 to R46 and every selector of R70, R71 and R95. -/
def Obligations.DecodeOfSpecWords : Prop :=
  decode [0x03000003#32, 0x473B8000#32] = .ok (.wrreg .cfgSrate 0x473B8000#32) ∧
  decode [0x10000000#32, 0x3F000000#32] = .ok (.wrs 0x3F000000#32) ∧
  decode [0x20100000#32] = .ok .xfmIfft ∧
  decode [0x31100005#32, 0x40400000#32] = .ok (.setbin .mag 5 0x40400000#32) ∧
  decode [0x40100000#32] = .ok (.wtgen true 0) ∧
  decode [0x52000003#32, 0x3F000000#32, 0x43DC0000#32, 0x00000000#32, 0x00000100#32]
    = .ok (.oupd 3 0x3F000000#32 0x43DC0000#32 0 256) ∧
  decode [0x54100002#32] = .ok (.oact true 2) ∧
  decode [0x61400001#32] = .ok (.getpk .frq 1) ∧
  decode [0x70000000#32] = .ok .rds ∧
  -- R27 to R46: every register number, read and written
  (∀ p ∈ ([
      (0x02000000#32, .cfgWinKind), (0x02000001#32, .cfgWinSize), (0x02000002#32, .cfgHopFactor),
      (0x02000003#32, .cfgSrate), (0x02000004#32, .cfgPad), (0x02000005#32, .cfgWaveKind),
      (0x02000006#32, .cfgTabSize), (0x02000007#32, .cfgMaxTrk), (0x02000008#32, .cfgGsigma),
      (0x02000009#32, .cfgThrK), (0x0200000A#32, .cfgPkThr), (0x0200000B#32, .cfgEps), (0x02000010#32, .mixCtl),
      (0x02000011#32, .mixGain), (0x02000020#32, .status), (0x02000021#32, .errFirst), (0x02000022#32, .errLast),
      (0x02000023#32, .errCnt), (0x02000024#32, .winSize), (0x02000025#32, .hopSize), (0x02000026#32, .padSize),
      (0x02000027#32, .numBins), (0x02000028#32, .appetite), (0x02000029#32, .count), (0x0200002A#32, .inW),
      (0x0200002B#32, .inR), (0x0200002C#32, .outW), (0x0200002D#32, .outR), (0x0200002E#32, .srate),
      (0x0200002F#32, .binWidth), (0x02000030#32, .maxAmp), (0x02000031#32, .normFactor),
      (0x02000032#32, .denormFactor), (0x02000033#32, .pkCount), (0x02000034#32, .pkCap), (0x02000035#32, .nosc),
      (0x02000036#32, .tabSize), (0x02000037#32, .wtKind), (0x02000038#32, .nActive), (0x02000039#32, .id),
      (0x0200003A#32, .winKind), (0x0200003B#32, .hopFactor), (0x0200003C#32, .pad), (0x0200003D#32, .eps)] : List (Word × Reg)),
    decode [p.1] = .ok (.rdreg p.2) ∧ decode [p.1 + 0x01000000#32, 1] = .ok (.wrreg p.2 1)) ∧
  -- R70: every array selector of `GETBIN` and `SETBIN`
  (∀ p ∈ ([
      (0x30000014#32, .amp), (0x30100014#32, .mag), (0x30200014#32, .phs), (0x30300014#32, .frq),
      (0x30400014#32, .mthr), (0x30500014#32, .pthr), (0x30600014#32, .win)] : List (Word × BinArray)),
    decode [p.1] = .ok (.getbin p.2 20) ∧ decode [p.1 + 0x01000000#32, 7] = .ok (.setbin p.2 20 7)) ∧
  -- R71: every field selector of `GETOSC` and of `GETPK`
  (∀ p ∈ ([
      (0x55000003#32, .ph), (0x55100003#32, .amp), (0x55200003#32, .freq), (0x55300003#32, .tAmp),
      (0x55400003#32, .tFreq), (0x55500003#32, .tPhase), (0x55600003#32, .steps), (0x55700003#32, .active),
      (0x55800003#32, .ampStep), (0x55900003#32, .freqStep)] : List (Word × OscField)),
    decode [p.1] = .ok (.getosc p.2 3)) ∧
  (∀ p ∈ ([
      (0x61000001#32, .bin), (0x61100001#32, .off), (0x61200001#32, .mag), (0x61300001#32, .amp),
      (0x61400001#32, .frq), (0x61500001#32, .phs)] : List (Word × PkField)),
    decode [p.1] = .ok (.getpk p.2 1)) ∧
  -- R95: the selectors of `XFM`, `WTGEN` and `OACT`
  decode [0x20000000#32] = .ok .xfmFft ∧ decode [0x40000000#32] = .ok (.wtgen false 0) ∧
  decode [0x54000002#32] = .ok (.oact false 2)

/-- A step runs the command that the packet on the port decodes to, once the packet is off the port; the same for a
word placed there by `withFetchWord`. -/
def Obligations.StepRunsDecodedCommand : Prop :=
  (∀ (s : State) (ws : List Word) (rest : List PortEvent) (i : Instr),
    s.port = .packet ws :: rest → decode ws = .ok i → step s = exec i { s with port := rest }) ∧
  (∀ (s : State) (nbits w : Nat) (i : Instr),
    decodeTableWord nbits w = some i → step (s.withFetchWord nbits w) = exec i s)

/-- With nothing on the port the block waits and emits nothing (R21, R97; the idle step is log entry 9); the reset
input puts it into the reset state of its implementation (R310, R7; the port event is log entry 10). -/
def Obligations.StepIdlesAndResets : Prop :=
  (∀ s : State, s.port = [] → step s = .next { s with response := none }) ∧
  (∀ (s : State) (rest : List PortEvent), s.port = .reset :: rest →
    step s = .next { State.resetWith s.params with port := rest })

/-! ## Reset, errors and invariants -/

/-- R61, R310: the reset state, element by element, of an implementation with any parameters (R7), and the words of the
reset values with the default ones. -/
def Obligations.ResetState : Prop :=
  (∀ p : Params,
    let s := State.resetWith p
    let N := p.num.ops
    s.params = p ∧
    s.mode = .unconf ∧ s.halt = false ∧ s.frdy = false ∧ s.specDirty = false ∧ s.wtValid = false ∧
    s.staged = { winKind := 0, winSize := 1024, hopFactor := 4, srate := N.ofNat 44100, pad := 1, waveKind := 0,
                 tabSize := 1024, maxTrk := 32, gsigma := N.ofDecimal false 4 1, thrK := N.one,
                 pkThr := N.zero, eps := N.ofDecimal false 1 7 } ∧
    s.normMode = .count ∧ s.denorm = true ∧ readReg s .mixCtl = 5 ∧ s.mixGain = N.one ∧
    s.errFirst = 0 ∧ s.errLast = 0 ∧ s.errCnt = 0 ∧
    s.maxAmp = N.zero ∧ s.normFactor = N.one ∧ s.denormFactor = N.one ∧
    s.act = Active.voidIn N ∧ ArraysVoid s) ∧
  State.reset = State.resetWith {} ∧
  State.reset.staged = { winKind := 0, winSize := 1024, hopFactor := 4, srate := 0x472C4400#32, pad := 1,
                         waveKind := 0, tabSize := 1024, maxTrk := 32, gsigma := 0x3ECCCCCD#32,
                         thrK := 0x3F800000#32, pkThr := 0x00000000#32, eps := 0x33D6BF95#32 } ∧
  State.reset.mixGain = 0x3F800000#32 ∧ State.reset.maxAmp = 0x00000000#32 ∧
  State.reset.normFactor = 0x3F800000#32 ∧ State.reset.denormFactor = 0x3F800000#32

/-- R285, R286: every answer to a packet whose code is not `OK` logs the code, saturating the count, sets `HALT` on codes
4, 6 and 9, carries the result 0 and changes nothing else; a failing `INIT` has cleared the flags, reset the
normalisation state and discarded every array besides. An answer `OK` leaves the log alone. -/
def Obligations.ErrorEffect : Prop :=
  ∀ (s t : State) (ws : List Word) (rest : List PortEvent), s.port = .packet ws :: rest → step s = .next t →
    ∃ r : Response, t.response = some r ∧
      (r.status = 0 → t.errFirst = s.errFirst ∧ t.errLast = s.errLast ∧ t.errCnt = s.errCnt) ∧
      (r.status ≠ 0 →
        r.result = 0 ∧
        t.errFirst = (if s.errCnt = 0 then r.status else s.errFirst) ∧
        t.errLast = r.status ∧
        t.errCnt = (if s.errCnt = 0xFFFFFFFF#32 then s.errCnt else s.errCnt + 1) ∧
        (decode ws ≠ .ok .init →
          t = { s with
            port := rest
            errFirst := t.errFirst, errLast := t.errLast, errCnt := t.errCnt
            halt := s.halt || (r.status == 4 || r.status == 6 || r.status == 9)
            response := some r }) ∧
        (decode ws = .ok .init →
          ArraysVoid t ∧ t.mode = .unconf ∧ t.halt = false ∧ t.frdy = false ∧ t.specDirty = false ∧
          t.wtValid = false ∧ t.maxAmp = s.num.zero ∧ t.normFactor = s.num.one ∧
          t.denormFactor = s.num.one ∧ t.params = s.params ∧ t.staged = s.staged ∧ t.normMode = s.normMode ∧ t.denorm = s.denorm ∧
          t.mixGain = s.mixGain ∧ t.port = rest ∧ t.freeCount = s.freeCount))

/-- R288: the code a command answers is that of the first failure condition in the fixed order of checks; a packet that
is no command answers `E_ILLEGAL`. -/
def Obligations.ErrorPriority : Prop :=
  (∀ (i : Instr) (s : State), ∃ t, exec i s = .next t ∧
    responseCode t = some (match firstError (errorConditions i s) with
      | some c => c.code
      | none => 0)) ∧
  (∀ (s : State) (ws : List Word) (rest : List PortEvent) (e : DecodeError), s.port = .packet ws :: rest →
    decode ws = .error e → ∃ t, step s = .next t ∧ responseCode t = some 1)

/-- R282: which command can return which code; an undecodable packet returns `E_ILLEGAL`. -/
def Obligations.AllowedCodes : Prop :=
  (∀ (i : Instr) (s t : State), exec i s = .next t →
    responseCode t = some 0 ∨ ∃ c ∈ allowedCodes i, responseCode t = some c.code) ∧
  (∀ (s t : State) (ws : List Word) (rest : List PortEvent) (e : DecodeError), s.port = .packet ws :: rest →
    decode ws = .error e → step s = .next t → responseCode t = some 1)

/-- R289: a failing `INIT`, in full. -/
def Obligations.InitFailure : Prop :=
  ∀ s : State, configLegal s.params s.staged = false → ∃ t, exec .init s = .next t ∧
    t.response = some { status := 3, result := 0 } ∧
    t.mode = .unconf ∧ t.halt = false ∧ t.frdy = false ∧ t.specDirty = false ∧ t.wtValid = false ∧
    ArraysVoid t ∧ t.act = Active.voidIn s.num ∧
    t.maxAmp = s.num.zero ∧ t.normFactor = s.num.one ∧ t.denormFactor = s.num.one ∧
    t.params = s.params ∧ t.staged = s.staged ∧ t.normMode = s.normMode ∧ t.denorm = s.denorm ∧ t.mixGain = s.mixGain ∧
    t.errFirst = (if s.errCnt = 0 then 3 else s.errFirst) ∧ t.errLast = 3 ∧
    t.errCnt = (if s.errCnt = 0xFFFFFFFF#32 then s.errCnt else s.errCnt + 1)

/-- R155: the mode machine. Each transition listed happens, no other does, and a transform in the wrong mode raises
`E_STATE`, halts and changes neither the mode nor any array. -/
def Obligations.ModeTransitions : Prop :=
  (∀ (i : Instr) (s t : State), exec i s = .next t →
    t.mode = s.mode ∨
    (i = .init ∧ t.mode = (if configLegal s.params s.staged then .waveform else .unconf)) ∨
    (i = .xfmFft ∧ s.mode = .waveform ∧ t.mode = .spectrum) ∨
    (i = .xfmIfft ∧ s.mode = .spectrum ∧ t.mode = .waveform)) ∧
  (∀ s : State, ∃ t, exec .init s = .next t ∧ t.mode = (if configLegal s.params s.staged then .waveform else .unconf)) ∧
  (∀ s : State, s.halt = false → s.mode = .waveform → ∃ t, exec .xfmFft s = .next t ∧ t.mode = .spectrum) ∧
  (∀ s : State, s.halt = false → s.mode = .spectrum → ∃ t, exec .xfmIfft s = .next t ∧ t.mode = .waveform) ∧
  (∀ s : State, s.halt = false → s.mode = .spectrum → exec .xfmFft s = .next (raiseError .state s)) ∧
  (∀ s : State, s.halt = false → s.mode = .waveform → exec .xfmIfft s = .next (raiseError .state s)) ∧
  (∀ s : State, (raiseError .state s).halt = true) ∧
  (∀ (s : State) (rest : List PortEvent), s.port = .reset :: rest → ∃ t, step s = .next t ∧ t.mode = .unconf)

/-- R283: the `HALT` latch. It resets to 0, a halting error sets it, while it is 1 every command but `NOP`, `RDREG` and
`INIT` is refused without effect, and only `INIT` or reset clears it. -/
def Obligations.HaltLatch : Prop :=
  State.reset.halt = false ∧
  (∀ (i : Instr) (s t : State), exec i s = .next t →
    (responseCode t = some 4 ∨ responseCode t = some 6 ∨ responseCode t = some 9 → t.halt = true) ∧
    (s.halt = false → t.halt = true →
      responseCode t = some 4 ∨ responseCode t = some 6 ∨ responseCode t = some 9) ∧
    (s.halt = true → runsHalted i = false →
      t = raiseError (if i.wellFormed then .halted else .illegal) s) ∧
    (s.halt = true → t.halt = false → i = .init) ∧
    (i = .init → t.halt = false)) ∧
  (∀ (s : State) (rest : List PortEvent), s.port = .reset :: rest → ∃ t, step s = .next t ∧ t.halt = false)

/-- The reset state satisfies the invariant, in every implementation with legal parameters, the default ones included
(R7, R60, R61). -/
def Obligations.InvariantAtReset : Prop :=
  (∀ p : Params, p.Legal → Inv (State.resetWith p)) ∧ Inv State.reset

/-- R60, R293: from every state with the invariant a step answers a next state with the invariant, whatever stands on
the port; and no step changes the implementation parameters (R7). -/
def Obligations.InvariantStep : Prop :=
  ∀ s : State, Inv s → ∃ t, step s = .next t ∧ Inv t ∧ t.params = s.params

/-- R23: who writes the flags, and nobody else. -/
def Obligations.FlagWriters : Prop :=
  (State.reset.halt = false ∧ State.reset.frdy = false ∧ State.reset.specDirty = false
    ∧ State.reset.wtValid = false) ∧
  ∀ (i : Instr) (s t : State), exec i s = .next t →
    (s.frdy = false → t.frdy = true → (∃ x, i = .wrs x) ∧ t.count = t.appetite) ∧
    (s.frdy = true → t.frdy = false → i = .xfmFft ∨ i = .init) ∧
    (s.specDirty = false → t.specDirty = true →
      s.mode = .spectrum ∧ responseCode t = some 0 ∧
      ∃ a k v, i = .setbin a k v ∧ (a = .amp ∨ a = .mag ∨ a = .phs)) ∧
    (∀ a k v, i = .setbin a k v → (a = .amp ∨ a = .mag ∨ a = .phs) → s.mode = .spectrum →
      responseCode t = some 0 → t.specDirty = true) ∧
    (s.specDirty = true → t.specDirty = false → i = .xfmFft ∨ i = .init) ∧
    (s.wtValid = false → t.wtValid = true → i = .init ∨ ∃ force kind, i = .wtgen force kind) ∧
    (s.wtValid = true → t.wtValid = false → i = .init) ∧
    (s.halt = false → t.halt = true → ∃ c : Status, c.halting = true ∧ responseCode t = some c.code) ∧
    (s.halt = true → t.halt = false → i = .init)

/-- R47, R268: no command but `INIT` changes the length of any array. -/
def Obligations.NoAllocationOutsideInit : Prop :=
  ∀ (i : Instr) (s t : State), Inv s → i ≠ .init → exec i s = .next t →
    t.inRing.buf.length = s.inRing.buf.length ∧ t.outRing.buf.length = s.outRing.buf.length ∧
    t.win.length = s.win.length ∧ t.specRe.length = s.specRe.length ∧ t.specIm.length = s.specIm.length ∧
    t.amp.length = s.amp.length ∧ t.mag.length = s.mag.length ∧ t.phs.length = s.phs.length ∧
    t.frq.length = s.frq.length ∧ t.mthr.length = s.mthr.length ∧ t.pthr.length = s.pthr.length ∧
    t.wt.length = s.wt.length ∧ t.osc.length = s.osc.length ∧ t.act = s.act

/-- R75: what a command that reads changes at most, and a command that fails. Which cursor or slot advances, and how,
is said by RdoPopsSample, OnextRendersSample, RdsMixesActiveSlots and WrsPushesSample. -/
def Obligations.ReadSideEffects : Prop :=
  (∀ (i : Instr) (s t : State),
    ((∃ a k, i = .getbin a k) ∨ (∃ k, i = .getwt k) ∨ (∃ f j, i = .getosc f j) ∨ (∃ f k, i = .getpk f k) ∨
      ∃ r, i = .rdreg r) →
    exec i s = .next t → responseCode t = some 0 →
    t = { s with response := t.response } ∧ exec i t = .next t) ∧
  (∀ s t : State, exec .rdo s = .next t → responseCode t = some 0 →
    t = { s with outRing := { s.outRing with r := t.outRing.r }, response := t.response }) ∧
  (∀ (j : BitVec 20) (s t : State), exec (.onext j) s = .next t → responseCode t = some 0 →
    t = { s with osc := t.osc, response := t.response } ∧ ∀ k, k ≠ j.toNat → t.slot k = s.slot k) ∧
  (∀ s t : State, exec .rds s = .next t → responseCode t = some 0 →
    t = { s with osc := t.osc, response := t.response } ∧
    ∀ k, (s.slot k).active = false → t.slot k = s.slot k) ∧
  (∀ (x : NUM) (s t : State), exec (.wrs x) s = .next t → responseCode t = some 0 →
    t = { s with
      inRing := { s.inRing with buf := t.inRing.buf, w := t.inRing.w }
      count := t.count, frdy := t.frdy, response := t.response }) ∧
  (∀ (i : Instr) (s t : State), i ≠ .init → exec i s = .next t → responseCode t ≠ some 0 →
    t = { s with
      errFirst := t.errFirst, errLast := t.errLast, errCnt := t.errCnt, halt := t.halt, response := t.response })

/-- R79: what stands in a staged register makes no difference to any command but `INIT` and a read of that register:
two blocks that differ only in the staged registers answer alike and differ only there afterwards. -/
def Obligations.StagedRegistersAreIsolated : Prop :=
  ∀ (i : Instr) (s t : State) (g : Staged), i ≠ .init → (∀ r, i = .rdreg r → 0x0B < r.num.toNat) →
    exec i s = .next t →
    ∃ u, exec i { s with staged := g } = .next u ∧ t = { u with staged := t.staged }

/-! ## Configuration and registers -/

/-- R121: `NOP` has no effect, in every mode and with `HALT = 1`. -/
def Obligations.NopHasNoEffect : Prop :=
  encode .nop = [0x00000000#32] ∧
  ∀ s : State, exec .nop s = .next { s with response := some { status := 0, result := 0 } }

/-- R124 (and R122): everything a successful `INIT` establishes, and what it leaves alone. The window is the Hann or
Gaussian formula of R158 and the table the sine formula of R191, each operation rounded separately, where the
implementation takes the defaults, and its own functions where it does not (log entry 6). -/
def Obligations.InitEstablishes : Prop :=
  encode .init = [0x01000000#32] ∧
  ∀ s : State, configLegal s.params s.staged = true → ∃ t, exec .init s = .next t ∧
    let N := s.num
    let a := t.act
    let n := a.size
    let b := a.numBins
    a = { windowKind := s.staged.winKind, windowSize := s.staged.winSize, hopFactor := s.staged.hopFactor,
          sampleRate := s.staged.srate, padFlag := s.staged.pad.getLsbD 0, waveKind := s.staged.waveKind,
          tableSize := s.staged.tabSize, maxTracks := s.staged.maxTrk, gsigma := s.staged.gsigma,
          thrK := s.staged.thrK, pkThr := s.staged.pkThr, eps := s.staged.eps } ∧
    t.inRing = { buf := List.replicate n N.zero, w := 0, r := 0 } ∧
    t.outRing = { buf := List.replicate n N.zero, w := 0, r := 0 } ∧
    t.appetite.toNat = n ∧ t.count = 0 ∧
    t.win.length = n ∧ (∀ k < n, readAt t.win k = match s.params.window with
      | .formula =>
        if a.windowKind = 0 then
          N.mul N.half (N.sub N.one (N.cos (N.div (N.mul N.twoPi (N.ofNat k)) (N.ofNat n))))
        else
          let c := N.div (N.ofNat (n - 1)) N.two
          let z := N.div (N.sub (N.ofNat k) c) (N.mul a.gsigma c)
          N.exp (N.mul (N.sub N.zero N.half) (N.mul z z))
      | .other => Config.otherWindow a.windowKind.toNat n k a.gsigma) ∧
    (a.windowKind = 0 ∨ a.windowKind = 1) ∧
    t.specRe = List.replicate b N.zero ∧ t.specIm = List.replicate b N.zero ∧
    t.amp = List.replicate b N.zero ∧ t.mag = List.replicate b N.zero ∧
    t.phs = List.replicate b N.zero ∧
    t.frq.length = b ∧
    (∀ k < b, readAt t.frq k = N.div (N.mul (N.ofNat k) a.sampleRate) (N.ofNat a.paddedSize)) ∧
    t.mthr.length = b ∧
    (∀ k < b, readAt t.mthr k
      = N.mul N.twenty (N.log10 (N.div N.one (N.mul a.thrK (readAt t.frq k))))) ∧
    t.pthr = List.replicate b a.pkThr ∧
    t.pk = [] ∧
    t.wt.length = a.tabLen + 1 ∧
    (∀ k < a.tabLen, readAt t.wt k = match s.params.waveGen with
      | .formula => N.sin (N.div (N.mul N.twoPi (N.ofNat k)) (N.ofNat a.tabLen))
      | .other => Config.otherWaveGen a.waveKind.toNat a.tabLen k) ∧
    readAt t.wt a.tabLen = readAt t.wt 0 ∧ t.wtKind = a.waveKind ∧ t.wtValid = true ∧
    t.osc = List.replicate a.slots
      { ph := N.zero, amp := N.zero, freq := N.zero, tAmp := N.zero, tFreq := N.zero, tPhase := N.zero
        ampStep := N.zero, freqStep := N.zero, stepsLeft := 0, active := false } ∧
    t.mode = .waveform ∧ t.halt = false ∧ t.frdy = false ∧ t.specDirty = false ∧
    t.maxAmp = N.zero ∧ t.normFactor = N.one ∧ t.denormFactor = N.one ∧
    t.response = some { status := 0, result := 0 } ∧
    t.staged = s.staged ∧ t.normMode = s.normMode ∧ t.denorm = s.denorm ∧ t.mixGain = s.mixGain ∧
    t.errFirst = s.errFirst ∧ t.errLast = s.errLast ∧ t.errCnt = s.errCnt ∧ t.port = s.port ∧
    t.freeCount = s.freeCount ∧ t.params = s.params

/-- R123: `ConfigLegal()` is exactly the conjunction of V1 to V12 with the bounds `WS_MAX`, `TS_MAX`,
`NOSC_MAX` of the implementation (R7, log entry 26) and the kinds this version defines (log entry 2). -/
def Obligations.ConfigLegalConditions : Prop :=
  ∀ (p : Params) (g : Staged),
    let N := p.num.ops
    configLegal p g = true ↔
    (g.winKind = 0 ∨ g.winKind = 1) ∧
    ((∃ k, g.winSize.toNat = 2 ^ k) ∧ 4 ≤ g.winSize.toNat ∧ g.winSize.toNat ≤ p.wsMax) ∧
    ((∃ k, g.hopFactor.toNat = 2 ^ k) ∧ 1 ≤ g.hopFactor.toNat ∧ g.hopFactor.toNat ≤ g.winSize.toNat) ∧
    (N.isFinite g.srate = true ∧ N.gt g.srate N.zero = true) ∧
    (g.pad = 0 ∨ g.pad = 1) ∧
    g.waveKind = 0 ∧
    (2 ≤ g.tabSize.toNat ∧ g.tabSize.toNat ≤ p.tsMax) ∧
    (1 ≤ g.maxTrk.toNat ∧ g.maxTrk.toNat ≤ p.noscMax) ∧
    (g.winKind = 1 → N.isFinite g.gsigma = true ∧ N.gt g.gsigma N.zero = true) ∧
    (N.isFinite g.thrK = true ∧ N.gt g.thrK N.zero = true) ∧
    (N.isFinite g.pkThr = true ∧ N.ge g.pkThr N.zero = true) ∧
    (N.isFinite g.eps = true ∧ N.gt g.eps N.zero = true)

/-- R125: `RDREG` answers the register in every mode and with `HALT = 1` and changes nothing; which staged element each
configuration register is (R27 to R38), the bits of `MIXCTL` (R39) and `MIXGAIN` (R40); the values of the error log
registers at any time (R42) and of the other status registers while `UNCONF` and while configured (R43 to R46). `ID` is
the parameter `ID_VALUE` of the implementation (R7; its default is log entry 2). -/
def Obligations.RdregReadsRegister : Prop :=
  (∀ r : Reg, encode (.rdreg r) = [hdr 0x02 0 r.num.toNat]) ∧
  (∀ (r : Reg) (s : State),
    exec (.rdreg r) s = .next { s with response := some { status := 0, result := readReg s r } }) ∧
  (∀ s : State,
    readReg s .cfgWinKind = s.staged.winKind ∧ readReg s .cfgWinSize = s.staged.winSize ∧
    readReg s .cfgHopFactor = s.staged.hopFactor ∧ readReg s .cfgSrate = s.staged.srate ∧
    readReg s .cfgPad = s.staged.pad ∧ readReg s .cfgWaveKind = s.staged.waveKind ∧
    readReg s .cfgTabSize = s.staged.tabSize ∧ readReg s .cfgMaxTrk = s.staged.maxTrk ∧
    readReg s .cfgGsigma = s.staged.gsigma ∧ readReg s .cfgThrK = s.staged.thrK ∧
    readReg s .cfgPkThr = s.staged.pkThr ∧ readReg s .cfgEps = s.staged.eps ∧
    (readReg s .mixCtl).extractLsb' 0 2
      = (match s.normMode with | .none => 0#2 | .count => 1#2 | .sqrtCount => 2#2) ∧
    (readReg s .mixCtl).getLsbD 2 = s.denorm ∧ (readReg s .mixCtl).extractLsb' 3 29 = 0 ∧
    readReg s .mixGain = s.mixGain) ∧
  (∀ s : State, readReg s .errFirst = s.errFirst ∧ readReg s .errLast = s.errLast ∧ readReg s .errCnt = s.errCnt) ∧
  (∀ (r : Reg) (s : State), s.mode = .unconf → 0x24 ≤ r.num.toNat →
    readReg s r = (if r = .normFactor ∨ r = .denormFactor then s.num.one
      else if r = .srate ∨ r = .binWidth ∨ r = .maxAmp ∨ r = .eps then s.num.zero
      else if r = .id then s.params.idValue else 0)) ∧
  (∀ s : State, s.mode ≠ .unconf →
    readReg s .winSize = s.act.windowSize ∧ (readReg s .hopSize).toNat = s.act.hopSize % 2 ^ 32 ∧
    (readReg s .padSize).toNat = s.act.paddedSize % 2 ^ 32 ∧ (readReg s .numBins).toNat = s.act.numBins % 2 ^ 32 ∧
    readReg s .srate = s.act.sampleRate ∧
    readReg s .binWidth = s.num.div s.act.sampleRate (s.num.ofNat s.act.paddedSize) ∧
    readReg s .winKind = s.act.windowKind ∧ readReg s .hopFactor = s.act.hopFactor ∧
    readReg s .pad = (if s.act.padFlag then 1 else 0) ∧ readReg s .eps = s.act.eps ∧
    readReg s .appetite = s.appetite ∧ readReg s .count = s.count ∧
    (readReg s .inW).toNat = s.inRing.w % 2 ^ 32 ∧ (readReg s .inR).toNat = s.inRing.r % 2 ^ 32 ∧
    (readReg s .outW).toNat = s.outRing.w % 2 ^ 32 ∧ (readReg s .outR).toNat = s.outRing.r % 2 ^ 32 ∧
    readReg s .maxAmp = s.maxAmp ∧ readReg s .normFactor = s.normFactor ∧
    readReg s .denormFactor = s.denormFactor ∧
    (readReg s .pkCount).toNat = s.pk.length % 2 ^ 32 ∧ (readReg s .pkCap).toNat = s.act.pkCap % 2 ^ 32 ∧
    readReg s .nosc = s.act.maxTracks ∧ readReg s .tabSize = s.act.tableSize ∧ readReg s .wtKind = s.wtKind ∧
    (readReg s .nActive).toNat
      = ((List.range s.act.slots).filter fun j => (s.slot j).active).length % 2 ^ 32 ∧
    readReg s .id = s.params.idValue)

/-- R41: the number of `STATUS`, its reset value, its bits, and that it is read-only. -/
def Obligations.StatusBits : Prop :=
  Reg.status.num = 0x20 ∧ readReg State.reset .status = 0 ∧
  ∀ s : State,
    (readReg s .status).extractLsb' 0 2
      = (match s.mode with | .unconf => 0#2 | .waveform => 1#2 | .spectrum => 2#2) ∧
    (readReg s .status).getLsbD 2 = s.halt ∧ (readReg s .status).getLsbD 3 = s.frdy ∧
    (readReg s .status).getLsbD 4 = s.specDirty ∧ (readReg s .status).getLsbD 5 = s.wtValid ∧
    (readReg s .status).extractLsb' 6 26 = 0 ∧
    (s.halt = false → ∀ v : Word, exec (.wrreg .status v) s = .next (raiseError .rdonly s))

/-- R126 (and R39): `WRREG`, its checks in order, and what a write does: the register reads back exactly what was
written, every other staged or live register reads as before, and nothing else changes. -/
def Obligations.WrregWritesRegister : Prop :=
  ∀ (r : Reg) (v : Word) (s : State),
    encode (.wrreg r v) = [hdr 0x03 0 r.num.toNat, v] ∧
    (r = .mixCtl → (v.toNat % 4 = 3 ∨ 8 ≤ v.toNat) → exec (.wrreg r v) s = .next (raiseError .illegal s)) ∧
    (¬ (r = .mixCtl ∧ (v.toNat % 4 = 3 ∨ 8 ≤ v.toNat)) →
      (s.halt = true → exec (.wrreg r v) s = .next (raiseError .halted s)) ∧
      (s.halt = false → 0x20 ≤ r.num.toNat → exec (.wrreg r v) s = .next (raiseError .rdonly s)) ∧
      (s.halt = false → r.num.toNat < 0x20 → ∃ t, exec (.wrreg r v) s = .next t ∧
        readReg t r = v ∧
        (∀ r' : Reg, r' ≠ r → readReg t r' = readReg s r') ∧
        t = { s with
          staged := t.staged, normMode := t.normMode, denorm := t.denorm, mixGain := t.mixGain
          response := some { status := 0, result := 0 } }))

/-! ## Streaming -/

/-- R141: `WRS` stores the sample unchanged under the write cursor, advances the cursor, counts, and answers 1 exactly
when the count reaches `appetite`. -/
def Obligations.WrsPushesSample : Prop :=
  ∀ (x : NUM) (s : State),
    encode (.wrs x) = [0x10000000#32, x] ∧ ReadyGuard (.wrs x) s ∧
    (Ready s → Inv s → ∃ t, exec (.wrs x) s = .next t ∧
      readAt t.inRing.buf s.inRing.w = x ∧
      (∀ k, k ≠ s.inRing.w → readAt t.inRing.buf k = readAt s.inRing.buf k) ∧
      t.inRing.w = (s.inRing.w + 1) % s.act.size ∧
      t.count = (if s.count = 0xFFFFFFFF#32 then s.count else s.count + 1) ∧
      (t.count = s.appetite → t.frdy = true ∧ t.response = some { status := 0, result := 1 }) ∧
      (t.count ≠ s.appetite → t.frdy = s.frdy ∧ t.response = some { status := 0, result := 0 }) ∧
      t = { s with
        inRing := { buf := t.inRing.buf, w := t.inRing.w, r := s.inRing.r }
        count := t.count, frdy := t.frdy, response := t.response })

/-- R143: `RDO` answers the sample under the read cursor of the output ring and advances the cursor, in both modes,
whether or not anything new was written; `N` of them bring the cursor round. -/
def Obligations.RdoPopsSample : Prop :=
  ∀ s : State,
    encode .rdo = [0x11000000#32] ∧ ReadyGuard .rdo s ∧
    (Ready s → Inv s → exec .rdo s = .next { s with
      outRing := { s.outRing with r := (s.outRing.r + 1) % s.act.size }
      response := some { status := 0, result := readAt s.outRing.buf s.outRing.r } }) ∧
    (Ready s → Inv s → (issueAll (List.replicate s.act.size .rdo) s).outRing = s.outRing)

/-- R144: `N` writes then `N` reads, `N` at most the capacity and the cursors level, read what was written, in order. -/
def Obligations.RingIsFifo : Prop :=
  ∀ (g : Ring) (xs : List NUM), isPow2 g.buf.length = true → g.w = g.r → g.r < g.buf.length →
    xs.length ≤ g.buf.length →
    (g.writeMany xs).readMany xs.length = xs ∧
    ((g.writeMany xs).popMany xs.length).r = ((g.writeMany xs).popMany xs.length).w

/-- R145: the cadence of balanced operation after any successful `INIT`. Frame `f` is ready when `N + f*H` samples have
been written, with `in_w = in_r = (f*H) mod N`, and consists of samples `f*H .. f*H + N - 1` in order; within a hop the
`WRS` that answers 1 is the `H`-th and no earlier one (the `N`-th for the first frame). -/
def Obligations.CadenceOfBalancedOperation : Prop :=
  ∀ (s0 s : State) (x : Nat → NUM) (f : Nat), configLegal s0.params s0.staged = true → exec .init s0 = .next s →
    let n := s.act.size
    let h := s.act.hopSize
    let t := issueAll (balanced x n h f) s
    t.mode = .waveform ∧ t.halt = false ∧ t.frdy = true ∧ lastResult t = 1 ∧
    t.inRing.w = (f * h) % n ∧ t.inRing.r = (f * h) % n ∧
    t.inRing.readMany n = (List.range n).map (fun k => x (f * h + k)) ∧
    (∀ m < n, lastResult (issueAll ((List.range (m + 1)).map fun k => Instr.wrs (x k)) s)
      = if m + 1 = n then 1 else 0) ∧
    (∀ m < h, lastResult (issueAll (balanced x n h f ++ [.xfmFft, .xfmIfft]
        ++ (List.range (m + 1)).map fun k => Instr.wrs (x (n + f * h + k))) s)
      = if m + 1 = h then 1 else 0)

/-! ## Transforms -/

/-- R156, R157, R159 to R164, R166: `XFM.FFT`. The frame is `N` samples from `in_r` on times the window, padded with
`+0`; the arrays are derived bin by bin from its transform; the cursor moves on by one hop. -/
def Obligations.XfmFftTransformsFrame : Prop :=
  encode .xfmFft = [0x20000000#32] ∧
  ∀ s : State, ReadyGuard .xfmFft s ∧
    (s.halt = false → s.mode = .spectrum → exec .xfmFft s = .next (raiseError .state s)) ∧
    (s.halt = false → s.mode = .waveform → Inv s →
      let N := s.num
      let n := s.act.size
      let p := s.act.paddedSize
      let b := s.act.numBins
      ∃ (tbuf : List NUM) (t : State), tbuf.length = p ∧
        (∀ k < n, readAt tbuf k
          = N.mul (readAt s.inRing.buf ((s.inRing.r + k) % n)) (readAt s.win k)) ∧
        (∀ k, n ≤ k → k < p → readAt tbuf k = N.zero) ∧
        exec .xfmFft s = .next t ∧
        (∀ k < b,
          let re := readAt t.specRe k
          let im := readAt t.specIm k
          let q := N.div (N.atan2 im re) N.twoPi
          let q' := if N.lt q N.zero = true then N.add q N.one else q
          (re, im) = Config.rfftBin s.params.num p tbuf k ∧
          readAt t.amp k = N.div (N.mul N.two (N.sqrt (N.add (N.mul re re) (N.mul im im))))
            (N.ofNat (b - 1)) ∧
          readAt t.phs k = (if N.ge q' N.one = true then N.zero else q') ∧
          readAt t.mag k = N.mul N.twenty (N.log10 (N.add (readAt t.amp k) s.act.eps))) ∧
        t.specRe.length = b ∧ t.specIm.length = b ∧ t.amp.length = b ∧ t.phs.length = b ∧ t.mag.length = b ∧
        t = { s with
          inRing := { s.inRing with r := (s.inRing.r + s.act.hopSize) % n }
          specRe := t.specRe, specIm := t.specIm, amp := t.amp, phs := t.phs, mag := t.mag
          maxAmp := t.maxAmp, normFactor := t.normFactor, denormFactor := t.denormFactor
          count := 0, appetite := u32 s.act.hopSize, frdy := false, specDirty := false, mode := .spectrum
          response := some { status := 0, result := 0 } })

/-- R165: `maxAmp` is the largest amplitude over bins `1 .. B-2`, starting from `+0`, a NaN never winning; the factors
follow it when it is finite and positive and are kept otherwise. -/
def Obligations.NormalisationFactors : Prop :=
  ∀ s t : State, s.num.Lawful → s.halt = false → s.mode = .waveform → exec .xfmFft s = .next t →
    let N := s.num
    let b := s.act.numBins
    (t.maxAmp = N.zero ∨ ∃ k, 1 ≤ k ∧ k ≤ b - 2 ∧ t.maxAmp = readAt t.amp k) ∧
    N.ge t.maxAmp N.zero = true ∧
    (∀ k, 1 ≤ k → k ≤ b - 2 → N.gt (readAt t.amp k) t.maxAmp = false) ∧
    (N.gt t.maxAmp N.zero = true → N.isFinite t.maxAmp = true →
      t.normFactor = N.div N.one t.maxAmp ∧ t.denormFactor = t.maxAmp) ∧
    (¬ (N.gt t.maxAmp N.zero = true ∧ N.isFinite t.maxAmp = true) →
      t.normFactor = s.normFactor ∧ t.denormFactor = s.denormFactor)

/-- R167, R168: `XFM.IFFT`. With a clean spectrum the first `N` inverse results go into the output ring from `out_w`
on and leave `out_w` where it was; with a modified one the cursor and the mode do the same and nothing is said of the
samples. -/
def Obligations.XfmIfftStreamsSamples : Prop :=
  encode .xfmIfft = [0x20100000#32] ∧
  ∀ s : State, ReadyGuard .xfmIfft s ∧
    (s.halt = false → s.mode = .waveform → exec .xfmIfft s = .next (raiseError .state s)) ∧
    (s.halt = false → s.mode = .spectrum → Inv s →
      let n := s.act.size
      ∃ t, exec .xfmIfft s = .next t ∧
        t.outRing.buf.length = n ∧
        (s.specDirty = false →
          (∀ k < n, readAt t.outRing.buf ((s.outRing.w + k) % n)
            = Config.irfftSample s.params.num s.act.paddedSize s.specRe s.specIm k) ∧
          t.freeCount = s.freeCount) ∧
        t = { s with
          outRing := { buf := t.outRing.buf, w := s.outRing.w, r := s.outRing.r }
          mode := .waveform, freeCount := t.freeCount, response := some { status := 0, result := 0 } })

/-- R143, R144, R167: after an `XFM.IFFT` of a clean spectrum with the output cursors level, `N` `RDO` answer the first
`N` inverse results in order. -/
def Obligations.OutputRingReadback : Prop :=
  ∀ s : State, s.halt = false → s.mode = .spectrum → Inv s → s.specDirty = false → s.outRing.r = s.outRing.w →
    ∀ k < s.act.size,
      lastResult (issueAll (Instr.xfmIfft :: List.replicate (k + 1) Instr.rdo) s)
        = Config.irfftSample s.params.num s.act.paddedSize s.specRe s.specIm k

/-! ## Array access -/

/-- R181: `GETBIN`, its checks and its result, in both modes. -/
def Obligations.GetbinReadsElement : Prop :=
  ∀ (a : BinArray) (k : BitVec 20) (s : State),
    encode (.getbin a k) = [hdr 0x30 a.code.toNat k.toNat] ∧ ReadyGuard (.getbin a k) s ∧
    let len := if a = .win then s.act.size else s.act.numBins
    let arr := match a with
      | .amp => s.amp | .mag => s.mag | .phs => s.phs | .frq => s.frq | .mthr => s.mthr | .pthr => s.pthr
      | .win => s.win
    (Ready s → len ≤ k.toNat → exec (.getbin a k) s = .next (raiseError .index s)) ∧
    (Ready s → k.toNat < len → exec (.getbin a k) s = .next { s with
      response := some { status := 0, result := readAt arr k.toNat } })

/-- R182 to R184: `SETBIN`. The read-only arrays are refused whatever the index, before the index is tested; a write
stores the value unchanged into one element of one array, every other element of every array reads as before, and
`SPECDIRTY` is set exactly as R183 says. -/
def Obligations.SetbinWritesElement : Prop :=
  ∀ (a : BinArray) (k : BitVec 20) (v : NUM) (s : State),
    encode (.setbin a k v) = [hdr 0x31 a.code.toNat k.toNat, v] ∧ ReadyGuard (.setbin a k v) s ∧
    (Ready s → (a = .frq ∨ a = .win) → exec (.setbin a k v) s = .next (raiseError .rdonly s)) ∧
    (Ready s → ¬ (a = .frq ∨ a = .win) → s.act.numBins ≤ k.toNat →
      exec (.setbin a k v) s = .next (raiseError .index s)) ∧
    (Ready s → Inv s → ¬ (a = .frq ∨ a = .win) → k.toNat < s.act.numBins → ∃ t,
      exec (.setbin a k v) s = .next t ∧
      readAt (binArray t a) k.toNat = v ∧
      (∀ (a' : BinArray) (k' : Nat), (a', k') ≠ (a, k.toNat) →
        readAt (binArray t a') k' = readAt (binArray s a') k') ∧
      t.specDirty = (s.specDirty ||
        (s.mode == .spectrum && (a == .amp || a == .mag || a == .phs))) ∧
      t = { s with
        amp := t.amp, mag := t.mag, phs := t.phs, mthr := t.mthr, pthr := t.pthr
        specDirty := t.specDirty, response := some { status := 0, result := 0 } })

/-- R73: an element index outside its array is reported, with the neutral result 0, and changes nothing but the error
log. -/
def Obligations.IndexRangeChecked : Prop :=
  ∀ (s t : State) (i : Instr), Ready s → i.wellFormed = true → exec i s = .next t →
    (((∃ a k, i = .getbin a k ∧ a ≠ .win ∧ s.act.numBins ≤ k.toNat) ∨
     (∃ k, i = .getbin .win k ∧ s.act.size ≤ k.toNat) ∨
     (∃ a k v, i = .setbin a k v ∧ a ≠ .frq ∧ a ≠ .win ∧ s.act.numBins ≤ k.toNat) ∨
     (∃ k, i = .getwt k ∧ s.act.tabLen < k.toNat) ∨
     (∃ j, s.act.slots ≤ j.toNat ∧ ((∃ a f p, i = .ostart j a f p) ∨ i = .ostop j ∨
        (∃ a f p n, i = .oupd j a f p n) ∨ i = .onext j ∨ (∃ on, i = .oact on j) ∨ ∃ fld, i = .getosc fld j)) ∨
     (∃ fld k, i = .getpk fld k ∧ s.pk.length ≤ k.toNat)) ↔
    responseCode t = some 5 ∧ t = { s with
      errFirst := if s.errCnt = 0 then 5 else s.errFirst
      errLast := 5
      errCnt := if s.errCnt = 0xFFFFFFFF#32 then s.errCnt else s.errCnt + 1
      response := some { status := 5, result := 0 } })

/-! ## Wavetable -/

/-- R192, R193: `WTGEN` does nothing for the kind held unless forced; else the table is generated anew, the guard point
a copy of element 0, and nothing else changes. A second `WTGEN` of the kind leaves the table as it is, forced or not.
The samples are those of `WaveGen` (R191): the sine formula, each operation rounded separately, where the implementation
takes the default, and its own function where it does not (log entry 6). That every kind but 0 answers `E_ILLEGAL` in
every implementation is the model's choice, log entry 2 (R191 lets an implementation define more). -/
def Obligations.WtgenGeneratesTable : Prop :=
  ∀ (force : Bool) (kind : BitVec 8) (s : State),
    let N := s.num
    encode (.wtgen force kind) = [hdr 0x40 force.toNat kind.toNat] ∧
    (kind ≠ 0 → exec (.wtgen force kind) s = .next (raiseError .illegal s)) ∧
    (kind = 0 → ReadyGuard (.wtgen force kind) s ∧
      (Ready s → s.wtValid = true → s.wtKind = kind.setWidth 32 → force = false →
        exec (.wtgen force kind) s = .next { s with response := some { status := 0, result := 0 } }) ∧
      (Ready s → ¬ (s.wtValid = true ∧ s.wtKind = kind.setWidth 32 ∧ force = false) → ∃ t,
        exec (.wtgen force kind) s = .next t ∧
        t.wt.length = s.act.tabLen + 1 ∧
        (∀ k < s.act.tabLen, readAt t.wt k = match s.params.waveGen with
          | .formula => N.sin (N.div (N.mul N.twoPi (N.ofNat k)) (N.ofNat s.act.tabLen))
          | .other => Config.otherWaveGen kind.toNat s.act.tabLen k) ∧
        (0 < s.act.tabLen → readAt t.wt s.act.tabLen = readAt t.wt 0) ∧
        t = { s with
          wt := t.wt, wtKind := kind.setWidth 32, wtValid := true
          response := some { status := 0, result := 1 } } ∧
        ∀ force' : Bool, ∃ u, exec (.wtgen force' kind) t = .next u ∧ u.wt = t.wt))

/-- R194: `GETWT` reads a table element, the guard point at index `T` included. -/
def Obligations.GetwtReadsTable : Prop :=
  ∀ (k : BitVec 20) (s : State),
    encode (.getwt k) = [hdr 0x41 0 k.toNat] ∧ ReadyGuard (.getwt k) s ∧
    (Ready s → s.act.tabLen < k.toNat → exec (.getwt k) s = .next (raiseError .index s)) ∧
    (Ready s → k.toNat ≤ s.act.tabLen → exec (.getwt k) s = .next { s with
      response := some { status := 0, result := readAt s.wt k.toNat } })

/-! ## Oscillators -/

/-- R201, R202: `OSTART`, its operand checks in order, and the slot it leaves; every other slot and everything else is
unchanged. -/
def Obligations.OstartSetsSlot : Prop :=
  ∀ (j : BitVec 20) (a f p : NUM) (s : State),
    let N := s.num
    encode (.ostart j a f p) = [hdr 0x50 0 j.toNat, a, f, p] ∧ ReadyGuard (.ostart j a f p) s ∧
    let freqOk := N.isFinite f = true ∧ N.le N.zero f = true ∧
      N.le f (N.div s.act.sampleRate N.two) = true
    (Ready s → s.act.slots ≤ j.toNat → exec (.ostart j a f p) s = .next (raiseError .index s)) ∧
    (Ready s → j.toNat < s.act.slots →
      (N.isFinite a = false → exec (.ostart j a f p) s = .next (raiseError .value s)) ∧
      (N.isFinite a = true → ¬ freqOk → exec (.ostart j a f p) s = .next (raiseError .freq s)) ∧
      (N.isFinite a = true → freqOk → N.isFinite p = false →
        exec (.ostart j a f p) s = .next (raiseError .value s)) ∧
      (Inv s → N.isFinite a = true → freqOk → N.isFinite p = true → ∃ t,
        exec (.ostart j a f p) s = .next t ∧
        (let x := N.mul (N.sub p (N.ofInt (N.floor p))) (N.ofNat s.act.tabLen)
         t.slot j.toNat
          = { ph := if N.lt x (N.ofNat s.act.tabLen) = false ∨ N.lt x N.zero = true then N.zero else x
              amp := a, freq := f, tAmp := a, tFreq := f, tPhase := p
              ampStep := N.zero, freqStep := N.zero, stepsLeft := 0
              active := (s.slot j.toNat).active }) ∧
        (∀ k, k ≠ j.toNat → t.slot k = s.slot k) ∧
        t = { s with osc := t.osc, response := some { status := 0, result := 0 } }))

/-- R203: `OSTOP` silences and deactivates one slot. -/
def Obligations.OstopSilencesSlot : Prop :=
  ∀ (j : BitVec 20) (s : State),
    let N := s.num
    encode (.ostop j) = [hdr 0x51 0 j.toNat] ∧ ReadyGuard (.ostop j) s ∧
    (Ready s → s.act.slots ≤ j.toNat → exec (.ostop j) s = .next (raiseError .index s)) ∧
    (Ready s → Inv s → j.toNat < s.act.slots → ∃ t, exec (.ostop j) s = .next t ∧
      t.slot j.toNat = { s.slot j.toNat with
        amp := N.zero, tAmp := N.zero, ampStep := N.zero, freqStep := N.zero, stepsLeft := 0
        active := false } ∧
      (∀ k, k ≠ j.toNat → t.slot k = s.slot k) ∧
      t = { s with osc := t.osc, response := some { status := 0, result := 0 } })

/-- R201, R204: `OUPD`, its operand checks in order, and the glide it sets up or, for `numSteps = 0`, the targets it
applies at once; the phase accumulator and the active bit stay. -/
def Obligations.OupdSetsGlide : Prop :=
  ∀ (j : BitVec 20) (a f p : NUM) (n : Word) (s : State),
    let N := s.num
    encode (.oupd j a f p n) = [hdr 0x52 0 j.toNat, a, f, p, n] ∧ ReadyGuard (.oupd j a f p n) s ∧
    let freqOk := N.isFinite f = true ∧ N.le N.zero f = true ∧
      N.le f (N.div s.act.sampleRate N.two) = true
    (Ready s → s.act.slots ≤ j.toNat → exec (.oupd j a f p n) s = .next (raiseError .index s)) ∧
    (Ready s → j.toNat < s.act.slots →
      (N.isFinite a = false → exec (.oupd j a f p n) s = .next (raiseError .value s)) ∧
      (N.isFinite a = true → ¬ freqOk → exec (.oupd j a f p n) s = .next (raiseError .freq s)) ∧
      (N.isFinite a = true → freqOk → N.isFinite p = false →
        exec (.oupd j a f p n) s = .next (raiseError .value s)) ∧
      (Inv s → N.isFinite a = true → freqOk → N.isFinite p = true → ∃ t,
        exec (.oupd j a f p n) s = .next t ∧
        (let o := s.slot j.toNat
         t.slot j.toNat =
          if n = 0 then
            { o with
              tAmp := a, tFreq := f, tPhase := p, amp := a, freq := f
              ampStep := N.zero, freqStep := N.zero, stepsLeft := 0 }
          else
            { o with
              tAmp := a, tFreq := f, tPhase := p
              ampStep := N.div (N.sub a o.amp) (N.ofNat n.toNat)
              freqStep := N.div (N.sub f o.freq) (N.ofNat n.toNat)
              stepsLeft := n }) ∧
        (∀ k, k ≠ j.toNat → t.slot k = s.slot k) ∧
        t = { s with osc := t.osc, response := some { status := 0, result := 0 } }))

/-- R205, R206: `ONEXT` answers the interpolated sample of the slot's current phase and amplitude, active or not, then
advances the phase by the current frequency, then makes one glide step. `ONEXT` completes in every ready block with the
invariant (which has a lawful numeric type, log entry 1), for every slot below `M`. -/
def Obligations.OnextRendersSample : Prop :=
  ∀ (j : BitVec 20) (s : State),
    encode (.onext j) = [hdr 0x53 0 j.toNat] ∧ ReadyGuard (.onext j) s ∧
    (Ready s → s.act.slots ≤ j.toNat → exec (.onext j) s = .next (raiseError .index s)) ∧
    (Ready s → Inv s → j.toNat < s.act.slots → ∃ (i : Nat) (t : State),
      let N := s.num
      let o := s.slot j.toNat
      let T := N.ofNat s.act.tabLen
      N.floor o.ph = i ∧ i < s.act.tabLen ∧
      exec (.onext j) s = .next t ∧
      (let f := N.sub o.ph (N.ofNat i)
       let w0 := readAt s.wt i
       let w1 := readAt s.wt (i + 1)
       t.response = some
        { status := 0, result := N.mul o.amp (N.add w0 (N.mul f (N.sub w1 w0))) }) ∧
      (let x := N.add o.ph (N.div (N.mul o.freq T) s.act.sampleRate)
       let x' := if N.ge x T = true then N.sub x T else x
       (t.slot j.toNat).ph = (if N.lt x' T = false ∨ N.lt x' N.zero = true then N.zero else x')) ∧
      (o.stepsLeft = 0 → t.slot j.toNat = { o with ph := (t.slot j.toNat).ph }) ∧
      (o.stepsLeft = 1 → t.slot j.toNat =
        { o with ph := (t.slot j.toNat).ph, stepsLeft := 0, amp := o.tAmp, freq := o.tFreq }) ∧
      (2 ≤ o.stepsLeft.toNat → t.slot j.toNat =
        { o with
          ph := (t.slot j.toNat).ph, stepsLeft := o.stepsLeft - 1
          amp := N.add o.amp o.ampStep, freq := N.add o.freq o.freqStep }) ∧
      (∀ k, k ≠ j.toNat → t.slot k = s.slot k) ∧
      t = { s with osc := t.osc, response := t.response })

/-- R207: `OACT` writes the active bit of one slot and touches nothing else. -/
def Obligations.OactWritesActiveBit : Prop :=
  ∀ (on : Bool) (j : BitVec 20) (s : State),
    encode (.oact on j) = [hdr 0x54 on.toNat j.toNat] ∧ ReadyGuard (.oact on j) s ∧
    (Ready s → s.act.slots ≤ j.toNat → exec (.oact on j) s = .next (raiseError .index s)) ∧
    (Ready s → Inv s → j.toNat < s.act.slots → ∃ t, exec (.oact on j) s = .next t ∧
      t.slot j.toNat = { s.slot j.toNat with active := on } ∧
      (∀ k, k ≠ j.toNat → t.slot k = s.slot k) ∧
      t = { s with osc := t.osc, response := some { status := 0, result := 0 } })

/-- R208: `GETOSC` answers the field its selector names. -/
def Obligations.GetoscReadsField : Prop :=
  ∀ (fld : OscField) (j : BitVec 20) (s : State),
    encode (.getosc fld j) = [hdr 0x55 fld.code.toNat j.toNat] ∧ ReadyGuard (.getosc fld j) s ∧
    let o := s.slot j.toNat
    let v : Word := match fld with
      | .ph => o.ph | .amp => o.amp | .freq => o.freq | .tAmp => o.tAmp | .tFreq => o.tFreq
      | .tPhase => o.tPhase | .steps => o.stepsLeft | .active => if o.active then 1 else 0
      | .ampStep => o.ampStep | .freqStep => o.freqStep
    (Ready s → s.act.slots ≤ j.toNat → exec (.getosc fld j) s = .next (raiseError .index s)) ∧
    (Ready s → j.toNat < s.act.slots → exec (.getosc fld j) s = .next { s with
      response := some { status := 0, result := v } })

/-- R209: the glide law. After an `OUPD` of `n >= 1` steps the `k`-th call uses amplitude and frequency after `k`
repeated additions of the steps, for `k < n`; from call `n` on it uses the targets exactly, with no step left. -/
def Obligations.GlideLaw : Prop :=
  ∀ (j : BitVec 20) (a f p : NUM) (n : Word) (s t : State) (k : Nat),
    Inv s → 1 ≤ n.toNat → exec (.oupd j a f p n) s = .next t → responseCode t = some 0 →
    let N := s.num
    let o := (issueAll (List.replicate k (Instr.onext j)) t).slot j.toNat
    let a0 := (s.slot j.toNat).amp
    let f0 := (s.slot j.toNat).freq
    (k < n.toNat →
      o.amp = (fun x => N.add x (N.div (N.sub a a0) (N.ofNat n.toNat)))^[k] a0 ∧
      o.freq = (fun x => N.add x (N.div (N.sub f f0) (N.ofNat n.toNat)))^[k] f0 ∧
      o.stepsLeft.toNat = n.toNat - k) ∧
    (n.toNat ≤ k → o.amp = a ∧ o.freq = f ∧ o.stepsLeft = 0)

/-- R210: the phase accumulator of a slot is in `[0, ofNat(T))` after `INIT`, `OSTART`, `ONEXT` and `RDS`, no other
command writes it, and its floor is a legal table index. Before the commands the invariant holds, which has a lawful
numeric type: its law of `floor` is log entry 1. -/
def Obligations.PhaseInvariant : Prop :=
  ∀ (i : Instr) (s t : State), Inv s → exec i s = .next t →
    (∀ o ∈ t.osc, s.num.le s.num.zero o.ph = true ∧ s.num.lt o.ph (s.num.ofNat t.act.tabLen) = true ∧
      0 ≤ s.num.floor o.ph ∧ s.num.floor o.ph < t.act.tabLen) ∧
    (∀ j, (t.slot j).ph ≠ (s.slot j).ph →
      i = .init ∨ i = .rds ∨ ∃ k : BitVec 20, k.toNat = j ∧ (i = .onext k ∨ ∃ a f p, i = .ostart k a f p))

/-! ## Peaks -/

/-- R221 (and R223 to R228): `PEAKS` rebuilds the list from the frame arrays: it holds, in ascending bin order, exactly
the records of the bins `2 .. B-3` that are candidates, pass the guard and are significant; nothing else changes. -/
def Obligations.PeaksRebuildsList : Prop :=
  encode .peaks = [0x60000000#32] ∧
  ∀ s : State, ReadyGuard .peaks s ∧
    (Ready s → Inv s → ∃ t, exec .peaks s = .next t ∧
      (∀ k : Peak, k ∈ t.pk ↔ ∃ i, 2 ≤ i ∧ i + 3 ≤ s.act.numBins ∧ Records s i k) ∧
      t.pk.Pairwise (fun k l => k.bin.toNat < l.bin.toNat) ∧
      t = { s with pk := t.pk, response := some { status := 0, result := BitVec.ofNat 32 t.pk.length } })

/-- R222: two peaks are at least four bins apart, so the list never exceeds `pkCap`. -/
def Obligations.PeakCapacity : Prop :=
  ∀ s : State, s.num.Lawful →
    (∀ i l, 2 ≤ i → i < l → candidate s.num s.mag s.mthr i = true → candidate s.num s.mag s.mthr l = true →
      i + 4 ≤ l) ∧
    (findPeaks s).length ≤ s.act.pkCap ∧
    s.act.pkCap = (if 5 ≤ s.act.numBins then (s.act.numBins - 4 + 3) / 4 else 0)

/-- R229: `GETPK` answers the field its selector names of a peak below `pkCount`; no command but `PEAKS` and `INIT`
changes the records. -/
def Obligations.GetpkReadsField : Prop :=
  (∀ (i : Instr) (s t : State), i ≠ .peaks → i ≠ .init → exec i s = .next t → t.pk = s.pk) ∧
  ∀ (fld : PkField) (k : BitVec 20) (s : State),
    encode (.getpk fld k) = [hdr 0x61 fld.code.toNat k.toNat] ∧ ReadyGuard (.getpk fld k) s ∧
    (Ready s → s.pk.length ≤ k.toNat → exec (.getpk fld k) s = .next (raiseError .index s)) ∧
    (Ready s → ∀ q : Peak, s.pk[k.toNat]? = some q →
      let v : Word := match fld with
        | .bin => q.bin | .off => q.off | .mag => q.mag | .amp => q.amp | .frq => q.frq | .phs => q.phs
      exec (.getpk fld k) s = .next { s with response := some { status := 0, result := v } })

/-! ## Mixer -/

/-- R241: `RDS`. With no active slot the answer is `+0` whatever the gain and the factor hold. Otherwise it is the sum
in ascending slot order, from `+0`, of what `ONEXT` would answer for each active slot, normalised, times the gain and,
with `DENORM`, times the factor. Each active slot advances as by `ONEXT`; inactive slots are frozen. -/
def Obligations.RdsMixesActiveSlots : Prop :=
  encode .rds = [0x70000000#32] ∧
  ∀ s : State, ReadyGuard .rds s ∧
    (Ready s → Inv s → ∃ t, exec .rds s = .next t ∧
      let N := s.num
      let act := (List.range s.act.slots).filter fun j => (s.slot j).active
      let alone := fun j : Nat => issue (.onext (BitVec.ofNat 20 j)) s
      let n := act.length
      let sum := act.foldl (fun acc j => N.add acc (lastResult (alone j))) N.zero
      let scaledSum := match s.normMode with
        | .none => sum
        | .count => N.div sum (N.ofNat n)
        | .sqrtCount => N.div sum (N.sqrt (N.ofNat n))
      let gained := N.mul scaledSum s.mixGain
      let out := if s.denorm then N.mul gained s.denormFactor else gained
      t.response = some { status := 0, result := if n = 0 then N.zero else out } ∧
      (∀ j < s.act.slots, (s.slot j).active = true → t.slot j = (alone j).slot j) ∧
      (∀ j, (s.slot j).active = false → t.slot j = s.slot j) ∧
      t.osc.length = s.osc.length ∧
      t = { s with osc := t.osc, response := t.response })

/-! ## The host's track firmware -/

/-- R253, R255: every transition of a track, with its counters. -/
def Obligations.TrackTransitions : Prop :=
  ∀ (birth death : Nat) (m : TrackMatch) (t : Track),
    (Track.begin m = { amplitude := m.amplitude, frequency := m.frequency, phase := m.phase, aliveFrames := 0,
                       birthFrames := 0, dyingFrames := 0, status := .birth }) ∧
    (t.status = .birth → birth ≤ t.birthFrames + 1 →
      t.update birth death true = { t with birthFrames := t.birthFrames + 1, status := .alive }) ∧
    (t.status = .birth → t.birthFrames + 1 < birth →
      t.update birth death true = { t with birthFrames := t.birthFrames + 1 }) ∧
    (t.status = .birth → t.update birth death false = { t with status := .dead }) ∧
    (t.status = .alive → t.update birth death true = { t with aliveFrames := t.aliveFrames + 1 }) ∧
    (t.status = .alive → t.update birth death false = { t with dyingFrames := 0, status := .dying }) ∧
    (t.status = .dying → t.update birth death true = { t with dyingFrames := 0, status := .alive }) ∧
    (t.status = .dying → death ≤ t.dyingFrames + 1 →
      t.update birth death false = { t with dyingFrames := t.dyingFrames + 1, status := .dead }) ∧
    (t.status = .dying → t.dyingFrames + 1 < death →
      t.update birth death false = { t with dyingFrames := t.dyingFrames + 1 }) ∧
    (∀ matched, t.status = .dead → t.update birth death matched = t)

/-- R265: the track lifecycle test. After its spawn a track is `Birth` for fewer than `trackBirth` matches and `Alive`
at the `trackBirth`-th; an `Alive` track that misses is `Dying` for fewer than `trackDeath` further misses and `Dead` at
the `trackDeath`-th; a match while `Dying` revives it and keeps the age counters. -/
def Obligations.TrackLifecycle : Prop :=
  ∀ (birth death : Nat) (m : TrackMatch), 1 ≤ birth → 1 ≤ death →
    (∀ n, n < birth → ((Track.update birth death true)^[n] (Track.begin m)).status = .birth) ∧
    ((Track.update birth death true)^[birth] (Track.begin m)).status = .alive ∧
    (∀ t : Track, t.status = .alive →
      (∀ n, n < death → ((Track.update birth death false)^[n + 1] t).status = .dying) ∧
      ((Track.update birth death false)^[death + 1] t).status = .dead ∧
      (∀ n, n < death →
        let back := Track.update birth death true ((Track.update birth death false)^[n + 1] t)
        back.status = .alive ∧ back.aliveFrames = t.aliveFrames ∧ back.birthFrames = t.birthFrames ∧
        back.dyingFrames = 0))

/-- R257, R258: the assignment gives every slot at most one peak, no peak to two slots, none to a `Dead` track, and
only a peak that was unassigned and within the track's match window. A track that is not `Dead` and at its turn has an
unassigned peak in its window claims one, and no such peak ranks before the one it claims, by the frequency difference and
then the weighted squared distance (log entry 19); of two that tie it claims the one with the lower index. -/
def Obligations.AssignmentIsInjective : Prop :=
  ∀ (N : NumType) (w : Weights) (matchWindow : NUM → NUM) (pool : List Track) (peaks : List TrackMatch), N.Lawful →
    let claims := (assign N w matchWindow pool peaks).1
    let gap := fun (t : Track) (m : TrackMatch) => distance N m.frequency t.frequency
    let square := fun x : NUM => N.mul x x
    let dist := fun (t : Track) (m : TrackMatch) =>
      N.add (N.add (N.mul w.amplitude (square (N.sub m.amplitude t.amplitude)))
        (N.mul w.frequency (square (N.sub m.frequency t.frequency))))
        (N.mul w.phase (square (N.sub m.phase t.phase)))
    let before := fun (t : Track) (m n : TrackMatch) =>
      N.lt (gap t m) (gap t n) = true ∨ (N.eq (gap t m) (gap t n) = true ∧ N.lt (dist t m) (dist t n) = true)
    claims.length = pool.length ∧
    (∀ j l k : Nat, claims[j]? = some (some k) → claims[l]? = some (some k) → j = l) ∧
    (∀ j k : Nat, claims[j]? = some (some k) → ∃ (t : Track) (m : TrackMatch), pool[j]? = some t ∧ peaks[k]? = some m ∧
      t.status ≠ .dead ∧ m.isAssigned = false ∧ N.le (gap t m) (matchWindow t.frequency) = true) ∧
    (∀ (j l : Nat) (t : Track) (m : TrackMatch), pool[j]? = some t → t.status ≠ .dead → peaks[l]? = some m →
      m.isAssigned = false → N.le (gap t m) (matchWindow t.frequency) = true →
      (∀ i < j, claims[i]? ≠ some (some l)) →
      ∃ (k : Nat) (n : TrackMatch), claims[j]? = some (some k) ∧ peaks[k]? = some n ∧ ¬ before t m n ∧
        (l < k → N.le (dist t m) (dist t m) = true → before t n m))

/-- R254, R263, R264: the breakpoint pass keeps the block's active bits equal to the audible set. If the pool has one
track for each slot (R250), they agree before and every peak is one `GETPK` can deliver, then after the commands of the
pass they agree with the new pool, which still has one track for each slot, no command has halted the block and the
invariant holds: every premise but the one about the peaks is there again for the next hop. -/
def Obligations.SyncKeepsAudibleSet : Prop :=
  ∀ (matchWindow : NUM → NUM) (rng : Nat → Nat) (h : HostState) (peaks : List TrackMatch) (s : State),
    Ready s → Inv s → h.fits s →
    (∀ m ∈ peaks, s.num.isFinite m.amplitude = true ∧ freqLegal s.num (s.act.nyquist s.num) m.frequency = true
      ∧ s.num.isFinite m.phase = true) →
    (∀ (j : Nat) (t : Track), h.pool[j]? = some t → (s.slot j).active = t.audible) →
    let r := breakpoint s.num matchWindow rng (u32 s.act.hopSize) h peaks
    let u := issueAll r.2 s
    Ready u ∧ Inv u ∧ u.params = s.params ∧ u.act = s.act ∧ u.errCnt = s.errCnt ∧ r.1.fits u ∧
    ∀ (j : Nat) (t : Track), r.1.pool[j]? = some t → (u.slot j).active = t.audible

/-! ## Arithmetic -/

/-- R224, R230 in real arithmetic: for a local maximum the second difference is negative, the parabola through the three
points has its vertex at the offset, less than half a bin away, and is nowhere higher than the vertex height. -/
def Obligations.RealParabolaVertex : Prop :=
  ∀ a b c : ℝ, a < b → c < b →
    Ideal.secondDifference a b c < 0 ∧
    -(1 / 2) < Ideal.vertexOffset a b c ∧ Ideal.vertexOffset a b c < 1 / 2 ∧
    b ≤ Ideal.vertexHeight a b c ∧
    (a < c → 0 < Ideal.vertexOffset a b c) ∧
    Ideal.parabola a b c (-1) = a ∧ Ideal.parabola a b c 0 = b ∧ Ideal.parabola a b c 1 = c ∧
    Ideal.parabola a b c (Ideal.vertexOffset a b c) = Ideal.vertexHeight a b c ∧
    ∀ x, Ideal.parabola a b c x ≤ Ideal.vertexHeight a b c

/-- R161: in real arithmetic the inverse transform is the exact inverse of the forward one. -/
def Obligations.RealTransformInverse : Prop :=
  ∀ (P : ℕ) (x re im y : ℕ → ℝ), 4 ≤ P → 2 ∣ P →
    Ideal.IsForward P x re im → Ideal.IsInverse P re im y → ∀ n < P, y n = x n

/-- R12: the sum, difference, product or quotient of two finite values. Below the overflow threshold, half a unit above the greatest
finite value, it is finite: the binary32 nearest to the exact result, and of two equally near the one with the even
fraction. From the threshold on, and for a division of a value that is not zero by zero, it is the infinity of the
result's sign. -/
def Obligations.ArithmeticRoundsToNearestEven : Prop :=
  ∀ a b c : NUM, F32.isFinite a = true → F32.isFinite b = true → F32.isFinite c = true →
    let one := (F32.quantaPerOne : ℤ)
    let va := F32.scaled a
    let vb := F32.scaled b
    let vc := F32.scaled c
    let limit : ℤ := (2 ^ 25 - 1) * 2 ^ 252
    let infinity := fun negative : Bool => if negative then 0xFF800000#32 else 0x7F800000#32
    (∀ r, r = F32.add a b →
      (|va + vb| < limit → F32.isFinite r = true ∧ |F32.scaled r - (va + vb)| ≤ |vc - (va + vb)| ∧
        (F32.scaled r ≠ vc → |F32.scaled r - (va + vb)| = |vc - (va + vb)| → r.toNat % 2 = 0)) ∧
      (limit ≤ |va + vb| → r = infinity (decide (va + vb < 0)))) ∧
    (∀ r, r = F32.sub a b →
      (|va - vb| < limit → F32.isFinite r = true ∧ |F32.scaled r - (va - vb)| ≤ |vc - (va - vb)| ∧
        (F32.scaled r ≠ vc → |F32.scaled r - (va - vb)| = |vc - (va - vb)| → r.toNat % 2 = 0)) ∧
      (limit ≤ |va - vb| → r = infinity (decide (va - vb < 0)))) ∧
    (∀ r, r = F32.mul a b →
      (|va * vb| < limit * one → F32.isFinite r = true ∧
        |F32.scaled r * one - va * vb| ≤ |vc * one - va * vb| ∧
        (F32.scaled r ≠ vc → |F32.scaled r * one - va * vb| = |vc * one - va * vb| → r.toNat % 2 = 0)) ∧
      (limit * one ≤ |va * vb| → r = infinity (decide (va * vb < 0)))) ∧
    (∀ r, r = F32.div a b →
      (vb ≠ 0 → |va| * one < limit * |vb| → F32.isFinite r = true ∧
        |F32.scaled r * vb - va * one| ≤ |vc * vb - va * one| ∧
        (F32.scaled r ≠ vc → |F32.scaled r * vb - va * one| = |vc * vb - va * one| → r.toNat % 2 = 0)) ∧
      (vb ≠ 0 → limit * |vb| ≤ |va| * one → r = infinity (decide (va * vb < 0))) ∧
      (vb = 0 → va ≠ 0 → r = infinity (decide (va < 0) != F32.sign b)))

/-- R12: the square root of a finite value that is not negative is the finite binary32 nearest to the exact root. -/
def Obligations.SqrtRoundsToNearest : Prop :=
  ∀ a c : NUM, F32.isFinite a = true → 0 ≤ F32.scaled a → F32.isFinite c = true →
    F32.isFinite (F32.sqrt a) = true ∧
    |(F32.scaled (F32.sqrt a) : ℝ) - Real.sqrt (F32.scaled a * F32.quantaPerOne)|
      ≤ |(F32.scaled c : ℝ) - Real.sqrt (F32.scaled a * F32.quantaPerOne)|

/-! ## Ranges of the slots, and the host's start -/

/-- R60, R209: the ranges R60 gives the slots, `amp` and `tAmp` finite, `freq` and `tFreq` finite and in `[0, nyquist]`.
Reset and `INIT` establish R60 in full, every command but `ONEXT` and `RDS` keeps it, and those two keep it where no
intermediate glide step leaves the ranges. Where no slot has an intermediate step left, every command keeps it and only an
`OUPD` of two or more steps can change that. In real arithmetic no step of a glide between two legal frequencies leaves
them. That a rounded step can, and an overflowing one does, is log entry 16. -/
def Obligations.SlotRangesKept : Prop :=
  (∀ p : Params, SlotsInRange (State.resetWith p) ∧ (p.Legal → FullInv (State.resetWith p))) ∧
  (∀ (i : Instr) (s t : State), Inv s → exec i s = .next t → (i = .init ∨ SlotsInRange s) →
    ((i = .rds ∨ ∃ j, i = .onext j) →
      ∀ o ∈ s.osc, 2 ≤ o.stepsLeft.toNat →
        s.num.isFinite (s.num.add o.amp o.ampStep) = true ∧
        freqLegal s.num (s.act.nyquist s.num) (s.num.add o.freq o.freqStep) = true) →
    FullInv t ∧ ∀ o ∈ t.osc,
      let nyquist := s.num.div t.act.sampleRate s.num.two
      s.num.isFinite o.amp = true ∧ s.num.isFinite o.tAmp = true ∧
      (s.num.isFinite o.freq = true ∧ s.num.le s.num.zero o.freq = true ∧ s.num.le o.freq nyquist = true) ∧
      (s.num.isFinite o.tFreq = true ∧ s.num.le s.num.zero o.tFreq = true ∧ s.num.le o.tFreq nyquist = true)) ∧
  (∀ (i : Instr) (s t : State), Inv s → exec i s = .next t → SlotsInRange s →
    (∀ o ∈ s.osc, o.stepsLeft.toNat < 2) → (∀ j a f p n, i = .oupd j a f p n → n.toNat < 2) →
    FullInv t ∧ ∀ o ∈ t.osc, o.stepsLeft.toNat < 2) ∧
  (∀ (f0 f1 nyquist : ℝ) (n k : ℕ), 0 ≤ f0 → f0 ≤ nyquist → 0 ≤ f1 → f1 ≤ nyquist → 1 ≤ n → k ≤ n →
    0 ≤ f0 + k * ((f1 - f0) / n) ∧ f0 + k * ((f1 - f0) / n) ≤ nyquist)

/-- R250, R251, R259: the host of a block that `INIT` has just configured keeps one `Dead` track for each of its `M` slots,
no eviction yet, no cap on spawns and every distance weight 1 (log entry 19), and the block's active bits, all 0, are its
audible set. -/
def Obligations.HostStartsInSync : Prop :=
  ∀ (birth death : Nat) (s : State), configLegal s.params s.staged = true → ∃ t, exec .init s = .next t ∧
    let h := HostState.start birth death t
    h.pool.length = t.act.slots ∧ h.pool.length = s.staged.maxTrk.toNat ∧
    h.trackBirth = birth ∧ h.trackDeath = death ∧ h.evictions = 0 ∧ h.spawnBudget = none ∧
    h.weights = { amplitude := s.num.one, frequency := s.num.one, phase := s.num.one } ∧
    ∀ (j : Nat) (k : Track), h.pool[j]? = some k → k.status = .dead ∧ (t.slot j).active = false ∧ k.audible = false
end

