-- ==== Sys2Proof/Laws/State.lean ====
section
/-! SUPPORT. One lemma per field per update of the state, each true by unfolding once. -/

namespace Sys2Proof.Machine

variable (s : State)

/-! ## A successful response -/

@[simp] theorem respondOk_port (res : Word) : (respondOk res s).port = s.port := rfl
@[simp] theorem respondOk_response (res : Word) : (respondOk res s).response = some { status := 0, result := res } := rfl
@[simp] theorem respondOk_params (res : Word) : (respondOk res s).params = s.params := rfl
@[simp] theorem respondOk_num (res : Word) : (respondOk res s).num = s.num := rfl
@[simp] theorem respondOk_mode (res : Word) : (respondOk res s).mode = s.mode := rfl
@[simp] theorem respondOk_halt (res : Word) : (respondOk res s).halt = s.halt := rfl
@[simp] theorem respondOk_frdy (res : Word) : (respondOk res s).frdy = s.frdy := rfl
@[simp] theorem respondOk_specDirty (res : Word) : (respondOk res s).specDirty = s.specDirty := rfl
@[simp] theorem respondOk_wtValid (res : Word) : (respondOk res s).wtValid = s.wtValid := rfl
@[simp] theorem respondOk_staged (res : Word) : (respondOk res s).staged = s.staged := rfl
@[simp] theorem respondOk_normMode (res : Word) : (respondOk res s).normMode = s.normMode := rfl
@[simp] theorem respondOk_denorm (res : Word) : (respondOk res s).denorm = s.denorm := rfl
@[simp] theorem respondOk_mixGain (res : Word) : (respondOk res s).mixGain = s.mixGain := rfl
@[simp] theorem respondOk_errFirst (res : Word) : (respondOk res s).errFirst = s.errFirst := rfl
@[simp] theorem respondOk_errLast (res : Word) : (respondOk res s).errLast = s.errLast := rfl
@[simp] theorem respondOk_errCnt (res : Word) : (respondOk res s).errCnt = s.errCnt := rfl
@[simp] theorem respondOk_act (res : Word) : (respondOk res s).act = s.act := rfl
@[simp] theorem respondOk_appetite (res : Word) : (respondOk res s).appetite = s.appetite := rfl
@[simp] theorem respondOk_count (res : Word) : (respondOk res s).count = s.count := rfl
@[simp] theorem respondOk_inRing (res : Word) : (respondOk res s).inRing = s.inRing := rfl
@[simp] theorem respondOk_outRing (res : Word) : (respondOk res s).outRing = s.outRing := rfl
@[simp] theorem respondOk_win (res : Word) : (respondOk res s).win = s.win := rfl
@[simp] theorem respondOk_specRe (res : Word) : (respondOk res s).specRe = s.specRe := rfl
@[simp] theorem respondOk_specIm (res : Word) : (respondOk res s).specIm = s.specIm := rfl
@[simp] theorem respondOk_amp (res : Word) : (respondOk res s).amp = s.amp := rfl
@[simp] theorem respondOk_mag (res : Word) : (respondOk res s).mag = s.mag := rfl
@[simp] theorem respondOk_phs (res : Word) : (respondOk res s).phs = s.phs := rfl
@[simp] theorem respondOk_frq (res : Word) : (respondOk res s).frq = s.frq := rfl
@[simp] theorem respondOk_mthr (res : Word) : (respondOk res s).mthr = s.mthr := rfl
@[simp] theorem respondOk_pthr (res : Word) : (respondOk res s).pthr = s.pthr := rfl
@[simp] theorem respondOk_maxAmp (res : Word) : (respondOk res s).maxAmp = s.maxAmp := rfl
@[simp] theorem respondOk_normFactor (res : Word) : (respondOk res s).normFactor = s.normFactor := rfl
@[simp] theorem respondOk_denormFactor (res : Word) : (respondOk res s).denormFactor = s.denormFactor := rfl
@[simp] theorem respondOk_pk (res : Word) : (respondOk res s).pk = s.pk := rfl
@[simp] theorem respondOk_wt (res : Word) : (respondOk res s).wt = s.wt := rfl
@[simp] theorem respondOk_wtKind (res : Word) : (respondOk res s).wtKind = s.wtKind := rfl
@[simp] theorem respondOk_osc (res : Word) : (respondOk res s).osc = s.osc := rfl
@[simp] theorem respondOk_freeCount (res : Word) : (respondOk res s).freeCount = s.freeCount := rfl

/-! ## An error -/

@[simp] theorem raiseError_port (c : Status) : (raiseError c s).port = s.port := rfl
@[simp] theorem raiseError_response (c : Status) : (raiseError c s).response = some { status := c.code, result := 0 } := rfl
@[simp] theorem raiseError_params (c : Status) : (raiseError c s).params = s.params := rfl
@[simp] theorem raiseError_num (c : Status) : (raiseError c s).num = s.num := rfl
@[simp] theorem raiseError_mode (c : Status) : (raiseError c s).mode = s.mode := rfl
@[simp] theorem raiseError_halt (c : Status) : (raiseError c s).halt = (s.halt || c.halting) := rfl
@[simp] theorem raiseError_frdy (c : Status) : (raiseError c s).frdy = s.frdy := rfl
@[simp] theorem raiseError_specDirty (c : Status) : (raiseError c s).specDirty = s.specDirty := rfl
@[simp] theorem raiseError_wtValid (c : Status) : (raiseError c s).wtValid = s.wtValid := rfl
@[simp] theorem raiseError_staged (c : Status) : (raiseError c s).staged = s.staged := rfl
@[simp] theorem raiseError_normMode (c : Status) : (raiseError c s).normMode = s.normMode := rfl
@[simp] theorem raiseError_denorm (c : Status) : (raiseError c s).denorm = s.denorm := rfl
@[simp] theorem raiseError_mixGain (c : Status) : (raiseError c s).mixGain = s.mixGain := rfl
@[simp] theorem raiseError_errFirst (c : Status) : (raiseError c s).errFirst = (if s.errCnt = 0 then c.code else s.errFirst) := rfl
@[simp] theorem raiseError_errLast (c : Status) : (raiseError c s).errLast = c.code := rfl
@[simp] theorem raiseError_errCnt (c : Status) : (raiseError c s).errCnt = satInc s.errCnt := rfl
@[simp] theorem raiseError_act (c : Status) : (raiseError c s).act = s.act := rfl
@[simp] theorem raiseError_appetite (c : Status) : (raiseError c s).appetite = s.appetite := rfl
@[simp] theorem raiseError_count (c : Status) : (raiseError c s).count = s.count := rfl
@[simp] theorem raiseError_inRing (c : Status) : (raiseError c s).inRing = s.inRing := rfl
@[simp] theorem raiseError_outRing (c : Status) : (raiseError c s).outRing = s.outRing := rfl
@[simp] theorem raiseError_win (c : Status) : (raiseError c s).win = s.win := rfl
@[simp] theorem raiseError_specRe (c : Status) : (raiseError c s).specRe = s.specRe := rfl
@[simp] theorem raiseError_specIm (c : Status) : (raiseError c s).specIm = s.specIm := rfl
@[simp] theorem raiseError_amp (c : Status) : (raiseError c s).amp = s.amp := rfl
@[simp] theorem raiseError_mag (c : Status) : (raiseError c s).mag = s.mag := rfl
@[simp] theorem raiseError_phs (c : Status) : (raiseError c s).phs = s.phs := rfl
@[simp] theorem raiseError_frq (c : Status) : (raiseError c s).frq = s.frq := rfl
@[simp] theorem raiseError_mthr (c : Status) : (raiseError c s).mthr = s.mthr := rfl
@[simp] theorem raiseError_pthr (c : Status) : (raiseError c s).pthr = s.pthr := rfl
@[simp] theorem raiseError_maxAmp (c : Status) : (raiseError c s).maxAmp = s.maxAmp := rfl
@[simp] theorem raiseError_normFactor (c : Status) : (raiseError c s).normFactor = s.normFactor := rfl
@[simp] theorem raiseError_denormFactor (c : Status) : (raiseError c s).denormFactor = s.denormFactor := rfl
@[simp] theorem raiseError_pk (c : Status) : (raiseError c s).pk = s.pk := rfl
@[simp] theorem raiseError_wt (c : Status) : (raiseError c s).wt = s.wt := rfl
@[simp] theorem raiseError_wtKind (c : Status) : (raiseError c s).wtKind = s.wtKind := rfl
@[simp] theorem raiseError_osc (c : Status) : (raiseError c s).osc = s.osc := rfl
@[simp] theorem raiseError_freeCount (c : Status) : (raiseError c s).freeCount = s.freeCount := rfl

/-! ## A slot written -/

@[simp] theorem setSlot_port (j : Nat) (o : Osc) : (s.setSlot j o).port = s.port := rfl
@[simp] theorem setSlot_response (j : Nat) (o : Osc) : (s.setSlot j o).response = s.response := rfl
@[simp] theorem setSlot_params (j : Nat) (o : Osc) : (s.setSlot j o).params = s.params := rfl
@[simp] theorem setSlot_num (j : Nat) (o : Osc) : (s.setSlot j o).num = s.num := rfl
@[simp] theorem setSlot_mode (j : Nat) (o : Osc) : (s.setSlot j o).mode = s.mode := rfl
@[simp] theorem setSlot_halt (j : Nat) (o : Osc) : (s.setSlot j o).halt = s.halt := rfl
@[simp] theorem setSlot_frdy (j : Nat) (o : Osc) : (s.setSlot j o).frdy = s.frdy := rfl
@[simp] theorem setSlot_specDirty (j : Nat) (o : Osc) : (s.setSlot j o).specDirty = s.specDirty := rfl
@[simp] theorem setSlot_wtValid (j : Nat) (o : Osc) : (s.setSlot j o).wtValid = s.wtValid := rfl
@[simp] theorem setSlot_staged (j : Nat) (o : Osc) : (s.setSlot j o).staged = s.staged := rfl
@[simp] theorem setSlot_normMode (j : Nat) (o : Osc) : (s.setSlot j o).normMode = s.normMode := rfl
@[simp] theorem setSlot_denorm (j : Nat) (o : Osc) : (s.setSlot j o).denorm = s.denorm := rfl
@[simp] theorem setSlot_mixGain (j : Nat) (o : Osc) : (s.setSlot j o).mixGain = s.mixGain := rfl
@[simp] theorem setSlot_errFirst (j : Nat) (o : Osc) : (s.setSlot j o).errFirst = s.errFirst := rfl
@[simp] theorem setSlot_errLast (j : Nat) (o : Osc) : (s.setSlot j o).errLast = s.errLast := rfl
@[simp] theorem setSlot_errCnt (j : Nat) (o : Osc) : (s.setSlot j o).errCnt = s.errCnt := rfl
@[simp] theorem setSlot_act (j : Nat) (o : Osc) : (s.setSlot j o).act = s.act := rfl
@[simp] theorem setSlot_appetite (j : Nat) (o : Osc) : (s.setSlot j o).appetite = s.appetite := rfl
@[simp] theorem setSlot_count (j : Nat) (o : Osc) : (s.setSlot j o).count = s.count := rfl
@[simp] theorem setSlot_inRing (j : Nat) (o : Osc) : (s.setSlot j o).inRing = s.inRing := rfl
@[simp] theorem setSlot_outRing (j : Nat) (o : Osc) : (s.setSlot j o).outRing = s.outRing := rfl
@[simp] theorem setSlot_win (j : Nat) (o : Osc) : (s.setSlot j o).win = s.win := rfl
@[simp] theorem setSlot_specRe (j : Nat) (o : Osc) : (s.setSlot j o).specRe = s.specRe := rfl
@[simp] theorem setSlot_specIm (j : Nat) (o : Osc) : (s.setSlot j o).specIm = s.specIm := rfl
@[simp] theorem setSlot_amp (j : Nat) (o : Osc) : (s.setSlot j o).amp = s.amp := rfl
@[simp] theorem setSlot_mag (j : Nat) (o : Osc) : (s.setSlot j o).mag = s.mag := rfl
@[simp] theorem setSlot_phs (j : Nat) (o : Osc) : (s.setSlot j o).phs = s.phs := rfl
@[simp] theorem setSlot_frq (j : Nat) (o : Osc) : (s.setSlot j o).frq = s.frq := rfl
@[simp] theorem setSlot_mthr (j : Nat) (o : Osc) : (s.setSlot j o).mthr = s.mthr := rfl
@[simp] theorem setSlot_pthr (j : Nat) (o : Osc) : (s.setSlot j o).pthr = s.pthr := rfl
@[simp] theorem setSlot_maxAmp (j : Nat) (o : Osc) : (s.setSlot j o).maxAmp = s.maxAmp := rfl
@[simp] theorem setSlot_normFactor (j : Nat) (o : Osc) : (s.setSlot j o).normFactor = s.normFactor := rfl
@[simp] theorem setSlot_denormFactor (j : Nat) (o : Osc) : (s.setSlot j o).denormFactor = s.denormFactor := rfl
@[simp] theorem setSlot_pk (j : Nat) (o : Osc) : (s.setSlot j o).pk = s.pk := rfl
@[simp] theorem setSlot_wt (j : Nat) (o : Osc) : (s.setSlot j o).wt = s.wt := rfl
@[simp] theorem setSlot_wtKind (j : Nat) (o : Osc) : (s.setSlot j o).wtKind = s.wtKind := rfl
@[simp] theorem setSlot_osc (j : Nat) (o : Osc) : (s.setSlot j o).osc = s.osc.set j o := rfl
@[simp] theorem setSlot_freeCount (j : Nat) (o : Osc) : (s.setSlot j o).freeCount = s.freeCount := rfl

/-! ## A sample pushed -/

@[simp] theorem pushSample_port (x : NUM) : (pushSample x s).port = s.port := rfl
@[simp] theorem pushSample_response (x : NUM) : (pushSample x s).response = s.response := rfl
@[simp] theorem pushSample_params (x : NUM) : (pushSample x s).params = s.params := rfl
@[simp] theorem pushSample_num (x : NUM) : (pushSample x s).num = s.num := rfl
@[simp] theorem pushSample_mode (x : NUM) : (pushSample x s).mode = s.mode := rfl
@[simp] theorem pushSample_halt (x : NUM) : (pushSample x s).halt = s.halt := rfl
@[simp] theorem pushSample_frdy (x : NUM) : (pushSample x s).frdy = (s.frdy || frameReady s) := rfl
@[simp] theorem pushSample_specDirty (x : NUM) : (pushSample x s).specDirty = s.specDirty := rfl
@[simp] theorem pushSample_wtValid (x : NUM) : (pushSample x s).wtValid = s.wtValid := rfl
@[simp] theorem pushSample_staged (x : NUM) : (pushSample x s).staged = s.staged := rfl
@[simp] theorem pushSample_normMode (x : NUM) : (pushSample x s).normMode = s.normMode := rfl
@[simp] theorem pushSample_denorm (x : NUM) : (pushSample x s).denorm = s.denorm := rfl
@[simp] theorem pushSample_mixGain (x : NUM) : (pushSample x s).mixGain = s.mixGain := rfl
@[simp] theorem pushSample_errFirst (x : NUM) : (pushSample x s).errFirst = s.errFirst := rfl
@[simp] theorem pushSample_errLast (x : NUM) : (pushSample x s).errLast = s.errLast := rfl
@[simp] theorem pushSample_errCnt (x : NUM) : (pushSample x s).errCnt = s.errCnt := rfl
@[simp] theorem pushSample_act (x : NUM) : (pushSample x s).act = s.act := rfl
@[simp] theorem pushSample_appetite (x : NUM) : (pushSample x s).appetite = s.appetite := rfl
@[simp] theorem pushSample_count (x : NUM) : (pushSample x s).count = satInc s.count := rfl
@[simp] theorem pushSample_inRing (x : NUM) : (pushSample x s).inRing = s.inRing.write x := rfl
@[simp] theorem pushSample_outRing (x : NUM) : (pushSample x s).outRing = s.outRing := rfl
@[simp] theorem pushSample_win (x : NUM) : (pushSample x s).win = s.win := rfl
@[simp] theorem pushSample_specRe (x : NUM) : (pushSample x s).specRe = s.specRe := rfl
@[simp] theorem pushSample_specIm (x : NUM) : (pushSample x s).specIm = s.specIm := rfl
@[simp] theorem pushSample_amp (x : NUM) : (pushSample x s).amp = s.amp := rfl
@[simp] theorem pushSample_mag (x : NUM) : (pushSample x s).mag = s.mag := rfl
@[simp] theorem pushSample_phs (x : NUM) : (pushSample x s).phs = s.phs := rfl
@[simp] theorem pushSample_frq (x : NUM) : (pushSample x s).frq = s.frq := rfl
@[simp] theorem pushSample_mthr (x : NUM) : (pushSample x s).mthr = s.mthr := rfl
@[simp] theorem pushSample_pthr (x : NUM) : (pushSample x s).pthr = s.pthr := rfl
@[simp] theorem pushSample_maxAmp (x : NUM) : (pushSample x s).maxAmp = s.maxAmp := rfl
@[simp] theorem pushSample_normFactor (x : NUM) : (pushSample x s).normFactor = s.normFactor := rfl
@[simp] theorem pushSample_denormFactor (x : NUM) : (pushSample x s).denormFactor = s.denormFactor := rfl
@[simp] theorem pushSample_pk (x : NUM) : (pushSample x s).pk = s.pk := rfl
@[simp] theorem pushSample_wt (x : NUM) : (pushSample x s).wt = s.wt := rfl
@[simp] theorem pushSample_wtKind (x : NUM) : (pushSample x s).wtKind = s.wtKind := rfl
@[simp] theorem pushSample_osc (x : NUM) : (pushSample x s).osc = s.osc := rfl
@[simp] theorem pushSample_freeCount (x : NUM) : (pushSample x s).freeCount = s.freeCount := rfl

/-! ## The table regenerated -/

@[simp] theorem regenerate_port (k : Word) : (regenerate k s).port = s.port := rfl
@[simp] theorem regenerate_response (k : Word) : (regenerate k s).response = s.response := rfl
@[simp] theorem regenerate_params (k : Word) : (regenerate k s).params = s.params := rfl
@[simp] theorem regenerate_num (k : Word) : (regenerate k s).num = s.num := rfl
@[simp] theorem regenerate_mode (k : Word) : (regenerate k s).mode = s.mode := rfl
@[simp] theorem regenerate_halt (k : Word) : (regenerate k s).halt = s.halt := rfl
@[simp] theorem regenerate_frdy (k : Word) : (regenerate k s).frdy = s.frdy := rfl
@[simp] theorem regenerate_specDirty (k : Word) : (regenerate k s).specDirty = s.specDirty := rfl
@[simp] theorem regenerate_wtValid (k : Word) : (regenerate k s).wtValid = true := rfl
@[simp] theorem regenerate_staged (k : Word) : (regenerate k s).staged = s.staged := rfl
@[simp] theorem regenerate_normMode (k : Word) : (regenerate k s).normMode = s.normMode := rfl
@[simp] theorem regenerate_denorm (k : Word) : (regenerate k s).denorm = s.denorm := rfl
@[simp] theorem regenerate_mixGain (k : Word) : (regenerate k s).mixGain = s.mixGain := rfl
@[simp] theorem regenerate_errFirst (k : Word) : (regenerate k s).errFirst = s.errFirst := rfl
@[simp] theorem regenerate_errLast (k : Word) : (regenerate k s).errLast = s.errLast := rfl
@[simp] theorem regenerate_errCnt (k : Word) : (regenerate k s).errCnt = s.errCnt := rfl
@[simp] theorem regenerate_act (k : Word) : (regenerate k s).act = s.act := rfl
@[simp] theorem regenerate_appetite (k : Word) : (regenerate k s).appetite = s.appetite := rfl
@[simp] theorem regenerate_count (k : Word) : (regenerate k s).count = s.count := rfl
@[simp] theorem regenerate_inRing (k : Word) : (regenerate k s).inRing = s.inRing := rfl
@[simp] theorem regenerate_outRing (k : Word) : (regenerate k s).outRing = s.outRing := rfl
@[simp] theorem regenerate_win (k : Word) : (regenerate k s).win = s.win := rfl
@[simp] theorem regenerate_specRe (k : Word) : (regenerate k s).specRe = s.specRe := rfl
@[simp] theorem regenerate_specIm (k : Word) : (regenerate k s).specIm = s.specIm := rfl
@[simp] theorem regenerate_amp (k : Word) : (regenerate k s).amp = s.amp := rfl
@[simp] theorem regenerate_mag (k : Word) : (regenerate k s).mag = s.mag := rfl
@[simp] theorem regenerate_phs (k : Word) : (regenerate k s).phs = s.phs := rfl
@[simp] theorem regenerate_frq (k : Word) : (regenerate k s).frq = s.frq := rfl
@[simp] theorem regenerate_mthr (k : Word) : (regenerate k s).mthr = s.mthr := rfl
@[simp] theorem regenerate_pthr (k : Word) : (regenerate k s).pthr = s.pthr := rfl
@[simp] theorem regenerate_maxAmp (k : Word) : (regenerate k s).maxAmp = s.maxAmp := rfl
@[simp] theorem regenerate_normFactor (k : Word) : (regenerate k s).normFactor = s.normFactor := rfl
@[simp] theorem regenerate_denormFactor (k : Word) : (regenerate k s).denormFactor = s.denormFactor := rfl
@[simp] theorem regenerate_pk (k : Word) : (regenerate k s).pk = s.pk := rfl
@[simp] theorem regenerate_wt (k : Word) : (regenerate k s).wt = waveTable s.params k.toNat s.act.tabLen := rfl
@[simp] theorem regenerate_wtKind (k : Word) : (regenerate k s).wtKind = k := rfl
@[simp] theorem regenerate_osc (k : Word) : (regenerate k s).osc = s.osc := rfl
@[simp] theorem regenerate_freeCount (k : Word) : (regenerate k s).freeCount = s.freeCount := rfl

/-! ## The inverse transform -/

@[simp] theorem inverseTransform_port : (inverseTransform s).port = s.port := rfl
@[simp] theorem inverseTransform_response : (inverseTransform s).response = s.response := rfl
@[simp] theorem inverseTransform_params : (inverseTransform s).params = s.params := rfl
@[simp] theorem inverseTransform_num : (inverseTransform s).num = s.num := rfl
@[simp] theorem inverseTransform_mode : (inverseTransform s).mode = .waveform := rfl
@[simp] theorem inverseTransform_halt : (inverseTransform s).halt = s.halt := rfl
@[simp] theorem inverseTransform_frdy : (inverseTransform s).frdy = s.frdy := rfl
@[simp] theorem inverseTransform_specDirty : (inverseTransform s).specDirty = s.specDirty := rfl
@[simp] theorem inverseTransform_wtValid : (inverseTransform s).wtValid = s.wtValid := rfl
@[simp] theorem inverseTransform_staged : (inverseTransform s).staged = s.staged := rfl
@[simp] theorem inverseTransform_normMode : (inverseTransform s).normMode = s.normMode := rfl
@[simp] theorem inverseTransform_denorm : (inverseTransform s).denorm = s.denorm := rfl
@[simp] theorem inverseTransform_mixGain : (inverseTransform s).mixGain = s.mixGain := rfl
@[simp] theorem inverseTransform_errFirst : (inverseTransform s).errFirst = s.errFirst := rfl
@[simp] theorem inverseTransform_errLast : (inverseTransform s).errLast = s.errLast := rfl
@[simp] theorem inverseTransform_errCnt : (inverseTransform s).errCnt = s.errCnt := rfl
@[simp] theorem inverseTransform_act : (inverseTransform s).act = s.act := rfl
@[simp] theorem inverseTransform_appetite : (inverseTransform s).appetite = s.appetite := rfl
@[simp] theorem inverseTransform_count : (inverseTransform s).count = s.count := rfl
@[simp] theorem inverseTransform_inRing : (inverseTransform s).inRing = s.inRing := rfl
@[simp] theorem inverseTransform_outRing : (inverseTransform s).outRing = s.outRing.writeMany (inverseSamples s) := rfl
@[simp] theorem inverseTransform_win : (inverseTransform s).win = s.win := rfl
@[simp] theorem inverseTransform_specRe : (inverseTransform s).specRe = s.specRe := rfl
@[simp] theorem inverseTransform_specIm : (inverseTransform s).specIm = s.specIm := rfl
@[simp] theorem inverseTransform_amp : (inverseTransform s).amp = s.amp := rfl
@[simp] theorem inverseTransform_mag : (inverseTransform s).mag = s.mag := rfl
@[simp] theorem inverseTransform_phs : (inverseTransform s).phs = s.phs := rfl
@[simp] theorem inverseTransform_frq : (inverseTransform s).frq = s.frq := rfl
@[simp] theorem inverseTransform_mthr : (inverseTransform s).mthr = s.mthr := rfl
@[simp] theorem inverseTransform_pthr : (inverseTransform s).pthr = s.pthr := rfl
@[simp] theorem inverseTransform_maxAmp : (inverseTransform s).maxAmp = s.maxAmp := rfl
@[simp] theorem inverseTransform_normFactor : (inverseTransform s).normFactor = s.normFactor := rfl
@[simp] theorem inverseTransform_denormFactor : (inverseTransform s).denormFactor = s.denormFactor := rfl
@[simp] theorem inverseTransform_pk : (inverseTransform s).pk = s.pk := rfl
@[simp] theorem inverseTransform_wt : (inverseTransform s).wt = s.wt := rfl
@[simp] theorem inverseTransform_wtKind : (inverseTransform s).wtKind = s.wtKind := rfl
@[simp] theorem inverseTransform_osc : (inverseTransform s).osc = s.osc := rfl
@[simp] theorem inverseTransform_freeCount : (inverseTransform s).freeCount = (if s.specDirty then s.freeCount + 1 else s.freeCount) := rfl

/-! ## The implementation parameters, which no update changes (00_scope.md R7) -/

@[simp] theorem resetWith_params (p : Params) : (State.resetWith p).params = p := rfl
@[simp] theorem resetWith_num (p : Params) : (State.resetWith p).num = p.num.ops := rfl
@[simp] theorem reset_num : State.reset.num = F32.type := rfl
@[simp] theorem applyReset_params : (applyReset s).params = s.params := rfl
@[simp] theorem applyReset_num : (applyReset s).num = s.num := rfl
@[simp] theorem discard_params : (discard s).params = s.params := rfl
@[simp] theorem discard_num : (discard s).num = s.num := rfl
@[simp] theorem establish_params (a : Active) : (establish a s).params = s.params := rfl
@[simp] theorem establish_num (a : Active) : (establish a s).num = s.num := rfl
@[simp] theorem withMax_params (m : NUM) : (withMax m s).params = s.params := rfl
@[simp] theorem withMax_num (m : NUM) : (withMax m s).num = s.num := rfl
@[simp] theorem forwardTransform_params : (forwardTransform s).params = s.params := rfl
@[simp] theorem forwardTransform_num : (forwardTransform s).num = s.num := rfl
@[simp] theorem writeReg_params (v : Word) (r : Reg) : (writeReg s v r).params = s.params := by cases r <;> rfl
@[simp] theorem writeReg_num (v : Word) (r : Reg) : (writeReg s v r).num = s.num := by cases r <;> rfl
@[simp] theorem storeBin_params (a : BinArray) (i : Nat) (v : NUM) : (storeBin a i v s).params = s.params := by
  cases a <;> rfl
@[simp] theorem storeBin_num (a : BinArray) (i : Nat) (v : NUM) : (storeBin a i v s).num = s.num := by cases a <;> rfl

/-! ## The port -/

@[simp] theorem idle_of_response_none (h : s.response = none) : idle s = s := by
  cases s; simp_all [idle]

@[simp] theorem fetch_nil (h : s.port = []) : fetch s = none := by simp [fetch, h]

@[simp] theorem fetch_cons {e : PortEvent} {es : List PortEvent} (h : s.port = e :: es) :
    fetch s = some (e, { s with port := es }) := by simp [fetch, h]

@[simp] theorem fetch_withFetchWord (nbits w : Nat) :
    fetch (s.withFetchWord nbits w) = some (.packet (tableWords nbits w), s) := rfl

end Sys2Proof.Machine
end

