-- ==== Sys2Proof/Laws/Ops.lean ====
section
/-! SUPPORT. What each shared operation can do, once: checks and errors, element access, the ring buffer. -/

namespace Sys2Proof.Machine

/-! ## Checks and errors -/

@[simp] theorem firstError_nil : firstError [] = none := rfl

@[simp] theorem firstError_cons (b : Bool) (c : Status) (rest : List (Bool × Status)) :
    firstError ((b, c) :: rest) = if b then some c else firstError rest := rfl

/-- The first failing check of two lists in a row. -/
theorem firstError_append (xs ys : List (Bool × Status)) :
    firstError (xs ++ ys) = (firstError xs).or (firstError ys) := by
  induction xs with
  | nil => simp
  | cons x xs ih => obtain ⟨b, c⟩ := x; cases b <;> simp [ih]

/-- All checks pass exactly when none fails. -/
theorem firstError_eq_none {cs : List (Bool × Status)} :
    firstError cs = none ↔ ∀ x ∈ cs, x.1 = false := by
  induction cs with
  | nil => simp
  | cons x cs ih => obtain ⟨b, c⟩ := x; cases b <;> simp [ih]

/-- The code an error gives is one of the list's. -/
theorem firstError_mem {cs : List (Bool × Status)} {c : Status} (h : firstError cs = some c) :
    (true, c) ∈ cs := by
  induction cs with
  | nil => simp at h
  | cons x cs ih => obtain ⟨b, d⟩ := x; cases b <;> simp_all

theorem runChecked_of_none {cs : List (Bool × Status)} (s t : State) (h : firstError cs = none) :
    runChecked cs s t = .next t := by simp [runChecked, h]

theorem runChecked_of_some {cs : List (Bool × Status)} {c : Status} (s t : State)
    (h : firstError cs = some c) : runChecked cs s t = .next (raiseError c s) := by simp [runChecked, h]

/-- Everything a checked command can do: its Operation, or the first error of its checks. -/
theorem runChecked_cases {cs : List (Bool × Status)} {s t u : State} (h : runChecked cs s t = .next u) :
    (firstError cs = none ∧ u = t) ∨ ∃ c, firstError cs = some c ∧ u = raiseError c s := by
  cases hc : firstError cs with
  | none => rw [runChecked_of_none s t hc] at h; cases h; exact .inl ⟨rfl, rfl⟩
  | some c => rw [runChecked_of_some s t hc] at h; cases h; exact .inr ⟨c, rfl, rfl⟩

/-- A checked command always answers a next state. -/
theorem runChecked_next (cs : List (Bool × Status)) (s t : State) : ∃ u, runChecked cs s t = .next u := by
  unfold runChecked; split <;> exact ⟨_, rfl⟩

/-- The ready checks pass exactly when the block is neither halted nor unconfigured. -/
@[simp] theorem readyChecks_none {s : State} :
    firstError (readyChecks s) = none ↔ s.halt = false ∧ s.mode ≠ .unconf := by
  cases h : s.halt <;> simp [readyChecks, haltedCheck, h]

@[simp] theorem raiseError_code_ne_zero {c : Status} : c.code = 0 ↔ c = .ok := by
  cases c <;> decide

/-! ## Element access -/

@[simp] theorem writeAt_length (arr : List NUM) (i : Nat) (v : NUM) : (writeAt arr i v).length = arr.length := by
  simp [writeAt]

/-- A read after a write to the same element gives the value written. -/
theorem readAt_writeAt_same {arr : List NUM} {i : Nat} (v : NUM) (h : i < arr.length) :
    readAt (writeAt arr i v) i = v := by
  simp [readAt, writeAt, List.getD_eq_getElem?_getD, h]

/-- A write leaves every other element alone. -/
theorem readAt_writeAt_ne {arr : List NUM} {i k : Nat} (v : NUM) (h : k ≠ i) :
    readAt (writeAt arr i v) k = readAt arr k := by
  simp [readAt, writeAt, List.getD_eq_getElem?_getD, List.getElem?_set_ne (Ne.symm h)]

/-! ## The ring buffer -/

@[simp] theorem Ring.write_length (g : Ring) (x : NUM) : (g.write x).buf.length = g.buf.length := by
  simp [Ring.write]

@[simp] theorem Ring.write_r (g : Ring) (x : NUM) : (g.write x).r = g.r := rfl

@[simp] theorem Ring.write_w (g : Ring) (x : NUM) : (g.write x).w = (g.w + 1) &&& (g.buf.length - 1) := rfl

@[simp] theorem Ring.pop_buf (g : Ring) : g.pop.buf = g.buf := rfl

@[simp] theorem Ring.pop_w (g : Ring) : g.pop.w = g.w := rfl

@[simp] theorem Ring.pop_r (g : Ring) : g.pop.r = (g.r + 1) &&& (g.buf.length - 1) := rfl

@[simp] theorem Ring.popMany_buf (g : Ring) (n : Nat) : (g.popMany n).buf = g.buf := by
  induction n generalizing g with
  | zero => rfl
  | succ n ih => simp [Ring.popMany, ih]

@[simp] theorem Ring.popMany_w (g : Ring) (n : Nat) : (g.popMany n).w = g.w := by
  induction n generalizing g with
  | zero => rfl
  | succ n ih => simp [Ring.popMany, ih]

@[simp] theorem Ring.writeMany_length (g : Ring) (xs : List NUM) : (g.writeMany xs).buf.length = g.buf.length := by
  induction xs generalizing g with
  | nil => rfl
  | cons x xs ih => simp [Ring.writeMany, ih]

@[simp] theorem Ring.writeMany_r (g : Ring) (xs : List NUM) : (g.writeMany xs).r = g.r := by
  induction xs generalizing g with
  | nil => rfl
  | cons x xs ih => simp [Ring.writeMany, ih]

@[simp] theorem Ring.readMany_length (g : Ring) (n : Nat) : (g.readMany n).length = n := by
  induction n generalizing g with
  | zero => rfl
  | succ n ih => simp [Ring.readMany, ih]

/-- A masked cursor is below a capacity that is not 0. -/
theorem mask_lt {p n : Nat} (h : 0 < n) : p &&& (n - 1) < n :=
  lt_of_le_of_lt Nat.and_le_right (Nat.sub_lt h Nat.one_pos)

/-- A power of two, as a number. -/
theorem isPow2_iff {n : Nat} : isPow2 n = true ↔ ∃ k, n = 2 ^ k := by
  rw [isPow2, Bool.and_eq_true, bne_iff_ne, beq_iff_eq]
  constructor
  · rintro ⟨h0, h⟩
    exact ⟨n.log2, by
      by_contra hne
      have h1 : 2 ^ n.log2 ≤ n := Nat.log2_self_le h0
      have h2 : n < 2 ^ (n.log2 + 1) := Nat.lt_log2_self
      have hb : (n &&& (n - 1)).testBit n.log2 = true := by
        have hlt : 2 ^ n.log2 ≤ n - 1 := by omega
        have hlt2 : n - 1 < 2 ^ (n.log2 + 1) := by omega
        rw [Nat.testBit_and, Nat.testBit_of_two_pow_le_and_two_pow_add_one_gt h1 h2,
          Nat.testBit_of_two_pow_le_and_two_pow_add_one_gt hlt hlt2]
        rfl
      rw [h] at hb
      simp at hb⟩
  · rintro ⟨k, rfl⟩
    exact ⟨by positivity, by rw [Nat.and_two_pow_sub_one_eq_mod]; simp⟩

/-- Masking with `C - 1` is the remainder modulo a power of two `C`. -/
theorem mask_eq_mod {p n : Nat} (h : isPow2 n = true) : p &&& (n - 1) = p % n := by
  obtain ⟨k, rfl⟩ := isPow2_iff.1 h
  exact Nat.and_two_pow_sub_one_eq_mod p k

/-- The write cursor after many writes. -/
theorem Ring.writeMany_w {g : Ring} (h : isPow2 g.buf.length = true) (hw : g.w < g.buf.length) (xs : List NUM) :
    (g.writeMany xs).w = (g.w + xs.length) % g.buf.length := by
  induction xs generalizing g with
  | nil => simp [Ring.writeMany, Nat.mod_eq_of_lt hw]
  | cons x xs ih =>
    have hpos : 0 < g.buf.length := lt_of_le_of_lt (Nat.zero_le _) hw
    rw [Ring.writeMany, ih (by simpa using h) (by simpa using mask_lt hpos)]
    simp [mask_eq_mod h, Nat.add_assoc, Nat.add_comm 1]

/-- The read cursor after many reads. -/
theorem Ring.popMany_r {g : Ring} (h : isPow2 g.buf.length = true) (hr : g.r < g.buf.length) (n : Nat) :
    (g.popMany n).r = (g.r + n) % g.buf.length := by
  induction n generalizing g with
  | zero => simp [Ring.popMany, Nat.mod_eq_of_lt hr]
  | succ n ih =>
    have hpos : 0 < g.buf.length := lt_of_le_of_lt (Nat.zero_le _) hr
    rw [Ring.popMany, ih (by simpa using h) (by simpa using mask_lt hpos)]
    simp [mask_eq_mod h, Nat.add_assoc, Nat.add_comm 1]

end Sys2Proof.Machine
end

