-- ==== Sys2Proof/Laws/Arrays.lean ====
section
/-! SUPPORT. Memory well-formedness (10_state.md R47): what `Memory.wf` says, that every operation over the arrays
keeps it, that every command keeps it, and that reset has it; and the check of R60. -/

namespace Sys2Proof.Machine

/-- `Memory.wf` as a proposition. -/
theorem Memory.wf_iff {s : State} :
    Memory.wf s = true ↔ if s.mode = .unconf then ArraysVoid s else ArraysFit s := by
  unfold Memory.wf
  split
  · constructor
    · intro h
      simp only [Bool.and_eq_true, beq_iff_eq] at h
      obtain ⟨⟨⟨⟨⟨⟨⟨⟨⟨⟨⟨⟨⟨⟨⟨⟨⟨h1, h2⟩, h3⟩, h4⟩, h5⟩, h6⟩, h7⟩, h8⟩, h9⟩, h10⟩, h11⟩, h12⟩, h13⟩, h14⟩, h15⟩, h16⟩,
        h17⟩, h18⟩ := h
      exact ⟨h1, h2, h3, h4, h5, h6, h7, h8, h9, h10, h11, h12, h13, h14, h15, h16, h17, h18⟩
    · rintro ⟨h1, h2, h3, h4, h5, h6, h7, h8, h9, h10, h11, h12, h13, h14, h15, h16, h17, h18⟩
      simp [h1, h2, h3, h4, h5, h6, h7, h8, h9, h10, h11, h12, h13, h14, h15, h16, h17, h18]
  · constructor
    · intro h
      simp only [Bool.and_eq_true, beq_iff_eq] at h
      obtain ⟨⟨⟨⟨⟨⟨⟨⟨⟨⟨⟨⟨h1, h2⟩, h3⟩, h4⟩, h5⟩, h6⟩, h7⟩, h8⟩, h9⟩, h10⟩, h11⟩, h12⟩, h13⟩ := h
      exact ⟨h1, h2, h3, h4, h5, h6, h7, h8, h9, h10, h11, h12, h13⟩
    · rintro ⟨h1, h2, h3, h4, h5, h6, h7, h8, h9, h10, h11, h12, h13⟩
      simp [h1, h2, h3, h4, h5, h6, h7, h8, h9, h10, h11, h12, h13]

theorem Memory.wf_unconf {s : State} (h : s.mode = .unconf) : Memory.wf s = true ↔ ArraysVoid s := by
  rw [Memory.wf_iff, if_pos h]

theorem Memory.wf_configured {s : State} (h : s.mode ≠ .unconf) : Memory.wf s = true ↔ ArraysFit s := by
  rw [Memory.wf_iff, if_neg h]

/-! ## The operations keep the lengths -/

variable {s : State}

theorem ArraysFit.respondOk (h : ArraysFit s) (res : Word) : ArraysFit (respondOk res s) := ⟨h.1, h.2, h.3, h.4, h.5,
  h.6, h.7, h.8, h.9, h.10, h.11, h.12, h.13⟩

theorem ArraysFit.raiseError (h : ArraysFit s) (c : Status) : ArraysFit (raiseError c s) := ⟨h.1, h.2, h.3, h.4, h.5,
  h.6, h.7, h.8, h.9, h.10, h.11, h.12, h.13⟩

theorem ArraysFit.setSlot (h : ArraysFit s) (j : Nat) (o : Osc) : ArraysFit (s.setSlot j o) :=
  { h with osc := by simpa using h.osc }

theorem ArraysFit.setBin (h : ArraysFit s) (i : Nat) (v : NUM) (a : BinArray) : ArraysFit (setBin s i v a) := by
  cases a
  · exact { h with amp := by simpa [Machine.setBin] using h.amp }
  · exact { h with mag := by simpa [Machine.setBin] using h.mag }
  · exact { h with phs := by simpa [Machine.setBin] using h.phs }
  · exact h
  · exact { h with mthr := by simpa [Machine.setBin] using h.mthr }
  · exact { h with pthr := by simpa [Machine.setBin] using h.pthr }
  · exact h

theorem ArraysFit.storeBin (h : ArraysFit s) (i : Nat) (v : NUM) (a : BinArray) : ArraysFit (storeBin a i v s) :=
  ⟨(h.setBin i v a).1, (h.setBin i v a).2, (h.setBin i v a).3, (h.setBin i v a).4, (h.setBin i v a).5,
    (h.setBin i v a).6, (h.setBin i v a).7, (h.setBin i v a).8, (h.setBin i v a).9, (h.setBin i v a).10,
    (h.setBin i v a).11, (h.setBin i v a).12, (h.setBin i v a).13⟩

theorem ArraysFit.pushSample (h : ArraysFit s) (x : NUM) : ArraysFit (pushSample x s) :=
  { h with inBuf := by simpa using h.inBuf }

theorem ArraysFit.popOut (h : ArraysFit s) : ArraysFit { s with outRing := s.outRing.pop } :=
  { h with outBuf := h.outBuf }

@[simp] theorem waveTable_length (p : Params) (kind t : Nat) : (waveTable p kind t).length = t + 1 := by simp [waveTable]

/-- An element of a generated list is the generator's value. -/
theorem readAt_map_range {f : Nat → NUM} {n k : Nat} (h : k < n) : readAt ((List.range n).map f) k = f k := by
  simp [readAt, h]

/-- What a list with a guard point appended reads as: the generator's values, and at the end the first of them. -/
theorem readAt_guarded (f : Nat → NUM) {t k : Nat} (h : k ≤ t) (ht : 0 < t) :
    readAt ((List.range t).map f ++ [readAt ((List.range t).map f) 0]) k = f (if k = t then 0 else k) := by
  rcases Nat.lt_or_eq_of_le h with hk | rfl
  · simp [readAt, List.getElem?_append, hk, Nat.ne_of_lt hk]
  · simp [readAt, ht]

/-- A sample of a generated table (44_wavetable.md R192). -/
theorem readAt_waveTable {p : Params} {kind t k : Nat} (h : k < t) :
    readAt (waveTable p kind t) k = waveGen p kind t k :=
  (readAt_guarded (waveGen p kind t) (Nat.le_of_lt h) (Nat.zero_lt_of_lt h)).trans (by rw [if_neg (Nat.ne_of_lt h)])

/-- The guard point of a generated table (44_wavetable.md R193). -/
theorem readAt_waveTable_guard {p : Params} {kind t : Nat} (h : 0 < t) :
    readAt (waveTable p kind t) t = readAt (waveTable p kind t) 0 :=
  (readAt_guarded (waveGen p kind t) (Nat.le_refl t) h).trans
    ((if_pos rfl ▸ rfl : waveGen p kind t (if t = t then 0 else t) = waveGen p kind t 0).trans (readAt_waveTable h).symm)

theorem ArraysFit.regenerate (h : ArraysFit s) (k : Word) : ArraysFit (regenerate k s) :=
  { h with wt := by simp }

@[simp] theorem rfft_length (num : NumKind) (p : Nat) (x : List NUM) : (rfft num p x).length = p / 2 + 1 := by simp [rfft]

@[simp] theorem withMax_act (m : NUM) (s : State) : (withMax m s).act = s.act := rfl

theorem ArraysFit.withMax (h : ArraysFit s) (m : NUM) : ArraysFit (withMax m s) := ⟨h.1, h.2, h.3, h.4, h.5,
  h.6, h.7, h.8, h.9, h.10, h.11, h.12, h.13⟩

theorem ArraysFit.forwardTransform (h : ArraysFit s) : ArraysFit (forwardTransform s) := by
  unfold Machine.forwardTransform
  refine ArraysFit.withMax ?_ _
  exact { h with
    inBuf := by simpa [afterFrame] using h.inBuf
    specRe := by simp [Active.numBins]
    specIm := by simp [Active.numBins]
    amp := by simp [Active.numBins]
    phs := by simp [Active.numBins]
    mag := by simp [Active.numBins] }

theorem ArraysFit.inverseTransform (h : ArraysFit s) : ArraysFit (inverseTransform s) :=
  { h with outBuf := by simpa using h.outBuf }

/-- An `RDS` keeps the number of slots. -/
theorem mixSlots_length (h : s.osc.length = s.act.slots) : (mixSlots s).length = s.act.slots := by
  simp [Machine.mixSlots, advanceActive, h]

theorem ArraysFit.mixSlots (h : ArraysFit s) : ArraysFit { s with osc := mixSlots s } :=
  { h with osc := mixSlots_length h.osc }

theorem ArraysFit.establish (a : Active) (s : State) : ArraysFit (establish a s) := by
  constructor <;> simp [Machine.establish, Ring.fresh]

theorem ArraysVoid.discard (s : State) : ArraysVoid (discard s) := by
  constructor <;> rfl

theorem ArraysVoid.respondOk (h : ArraysVoid s) (res : Word) : ArraysVoid (respondOk res s) := ⟨h.1, h.2, h.3, h.4,
  h.5, h.6, h.7, h.8, h.9, h.10, h.11, h.12, h.13, h.14, h.15, h.16, h.17, h.18⟩

theorem ArraysVoid.raiseError (h : ArraysVoid s) (c : Status) : ArraysVoid (raiseError c s) := ⟨h.1, h.2, h.3, h.4,
  h.5, h.6, h.7, h.8, h.9, h.10, h.11, h.12, h.13, h.14, h.15, h.16, h.17, h.18⟩

/-! ## Every operation keeps `Memory.wf` -/

theorem Memory.wf_raiseError (h : Memory.wf s = true) (c : Status) : Memory.wf (raiseError c s) = true := h

theorem Memory.wf_respondOk (h : Memory.wf s = true) (res : Word) : Memory.wf (respondOk res s) = true := h

theorem Memory.wf_writeReg (h : Memory.wf s = true) (v : Word) (r : Reg) : Memory.wf (writeReg s v r) = true := by
  cases r <;> exact h

/-- The arrays fit where the memory is well formed and the block is configured. -/
theorem Memory.fits (h : Memory.wf s = true) (hm : s.mode ≠ .unconf) : ArraysFit s := (Memory.wf_configured hm).1 h

/-- A checked command keeps `Memory.wf` if its Operation, run in a ready block, does. -/
theorem Memory.wf_runChecked {cs : List (Bool × Status)} {t u : State} (h : Memory.wf s = true)
    (hr : runChecked cs s t = .next u) (hok : firstError cs = none → Memory.wf t = true) : Memory.wf u = true := by
  obtain ⟨hn, rfl⟩ | ⟨c, -, rfl⟩ := runChecked_cases hr
  · exact hok hn
  · exact Memory.wf_raiseError h c

/-- A list of checks that starts with the ready checks passes only in a configured block. -/
theorem ready_of_checks {cs : List (Bool × Status)} (h : firstError (readyChecks s ++ cs) = none) :
    s.mode ≠ .unconf := by
  rw [firstError_append, Option.or_eq_none_iff, readyChecks_none] at h
  exact h.1.2

/-- Every command keeps `Memory.wf`. -/
theorem Memory.wf_exec {i : Instr} {t : State} (h : Memory.wf s = true) (hx : exec i s = .next t) :
    Memory.wf t = true := by
  have fit : ∀ {u : State}, u.mode ≠ .unconf → ArraysFit u → Memory.wf u = true :=
    fun hm hf => (Memory.wf_configured hm).2 hf
  cases i with
  | nop => cases hx; exact h
  | init =>
    simp only [exec, execInit] at hx
    split at hx <;> cases hx
    · exact fit (by simp [establish]) ((ArraysFit.establish _ _).respondOk 0)
    · exact (Memory.wf_unconf rfl).2 ((ArraysVoid.discard s).raiseError .config)
  | rdreg r => cases hx; exact h
  | wrreg r v => exact Memory.wf_runChecked h hx fun _ => Memory.wf_writeReg h v r
  | wrs x =>
    refine Memory.wf_runChecked h hx fun hc => ?_
    have hm := (readyChecks_none.1 hc).2
    exact fit hm (((Memory.fits h hm).pushSample x).respondOk _)
  | rdo =>
    refine Memory.wf_runChecked h hx fun hc => ?_
    have hm := (readyChecks_none.1 hc).2
    exact fit hm ((Memory.fits h hm).popOut.respondOk _)
  | xfmFft =>
    refine Memory.wf_runChecked h hx fun hc => ?_
    have hm := ready_of_checks hc
    exact fit (by simp [forwardTransform, withMax]) ((Memory.fits h hm).forwardTransform.respondOk _)
  | xfmIfft =>
    refine Memory.wf_runChecked h hx fun hc => ?_
    have hm := ready_of_checks hc
    exact fit (by simp) ((Memory.fits h hm).inverseTransform.respondOk _)
  | getbin a k => exact Memory.wf_runChecked h hx fun _ => h
  | setbin a k v =>
    refine Memory.wf_runChecked h hx fun hc => ?_
    have hm := ready_of_checks hc
    have hmode : (storeBin a k.toNat v s).mode = s.mode := by cases a <;> rfl
    exact fit (by simpa [hmode] using hm) (((Memory.fits h hm).storeBin k.toNat v a).respondOk _)
  | wtgen force kind =>
    refine Memory.wf_runChecked h hx fun hc => ?_
    have hm : s.mode ≠ .unconf := by
      rw [firstError_cons] at hc
      split at hc
      · cases hc
      · exact (readyChecks_none.1 hc).2
    split
    · exact h
    · exact fit hm (((Memory.fits h hm).regenerate _).respondOk _)
  | getwt k => exact Memory.wf_runChecked h hx fun _ => h
  | ostart j a f p =>
    refine Memory.wf_runChecked h hx fun hc => ?_
    have hm := ready_of_checks (by simpa [slotChecks] using hc)
    exact fit hm (((Memory.fits h hm).setSlot _ _).respondOk _)
  | ostop j =>
    refine Memory.wf_runChecked h hx fun hc => ?_
    have hm := ready_of_checks hc
    exact fit hm (((Memory.fits h hm).setSlot _ _).respondOk _)
  | oupd j a f p n =>
    refine Memory.wf_runChecked h hx fun hc => ?_
    have hm := ready_of_checks (by simpa [slotChecks] using hc)
    exact fit hm (((Memory.fits h hm).setSlot _ _).respondOk _)
  | onext j =>
    refine Memory.wf_runChecked h hx fun hc => ?_
    have hm := ready_of_checks hc
    exact fit hm (((Memory.fits h hm).setSlot _ _).respondOk _)
  | oact on j =>
    refine Memory.wf_runChecked h hx fun hc => ?_
    have hm := ready_of_checks hc
    exact fit hm (((Memory.fits h hm).setSlot _ _).respondOk _)
  | getosc f j => exact Memory.wf_runChecked h hx fun _ => h
  | peaks =>
    refine Memory.wf_runChecked h hx fun hc => ?_
    have hm := (readyChecks_none.1 hc).2
    have hf := Memory.fits h hm
    exact fit hm ⟨hf.1, hf.2, hf.3, hf.4, hf.5, hf.6, hf.7, hf.8, hf.9, hf.10, hf.11, hf.12, hf.13⟩
  | getpk f k => exact Memory.wf_runChecked h hx fun _ => h
  | rds =>
    refine Memory.wf_runChecked h hx fun hc => ?_
    have hm := (readyChecks_none.1 hc).2
    exact fit hm ((Memory.fits h hm).mixSlots.respondOk _)

/-- The reset state's memory is well formed. -/
theorem Memory.wf_reset : Memory.wf State.reset = true := by decide

/-! ## The check of R60 -/

/-- A state with R60 in full passes its check. -/
theorem invariantCheck_of_fullInv {s : State} (h : FullInv s) : invariantCheck s = true := by
  unfold invariantCheck
  by_cases hm : s.mode = .unconf
  · simp [hm]
  have c := h.inv.configured hm
  have g := c.geometry
  have hf : 0 < s.act.hopFactor.toNat := by
    obtain ⟨k, hk⟩ := isPow2_iff.1 g.hopPow2
    rw [hk]; positivity
  have hop : 1 ≤ s.act.hopSize ∧ s.act.hopSize ≤ s.act.size :=
    ⟨(Nat.one_le_div_iff hf).2 g.hopMax, Nat.div_le_self _ _⟩
  have pad : s.act.paddedSize = s.act.size ∨ s.act.paddedSize = 2 * s.act.size := by
    unfold Active.paddedSize; split <;> simp
  have bins : 3 ≤ s.act.numBins := by
    have := g.sizeMin
    unfold Active.numBins; omega
  have slots : s.osc.all (fun o => phaseInTable s.num s.act.tabLen o.ph && o.inRange s.num (s.act.nyquist s.num))
      = true := by
    simp only [List.all_eq_true, Bool.and_eq_true]
    exact fun o ho => ⟨c.phase o ho, h.slots o ho⟩
  have spectrum : s.mode = .spectrum → s.appetite = u32 s.act.hopSize := c.spectrum
  simp only [Bool.or_eq_true, Bool.and_eq_true, beq_iff_eq, bne_iff_ne, decide_eq_true_eq]
  exact .inr ⟨⟨⟨⟨⟨⟨⟨⟨⟨⟨⟨⟨⟨⟨⟨⟨g.sizePow2, g.hopPow2⟩, hop.1⟩, hop.2⟩, pad⟩, rfl⟩, bins⟩, c.inW⟩, c.inR⟩, c.outW⟩,
    c.outR⟩, c.appetite⟩, c.peaks⟩, c.table⟩, c.guardPoint⟩, slots⟩, Decidable.not_or_of_imp spectrum⟩

end Sys2Proof.Machine
end

