-- ==== Sys2Proof/Laws/Encode.lean ====
section
/-! SUPPORT. The header of a packet (30_encoding.md R91): its fields and the word they make determine each other, and
an opcode and its byte do. -/

namespace Sys2Proof

variable (o : BitVec 8) (s : BitVec 4) (i : BitVec 20)
/-- A header word as a number (R91). -/
theorem mkHdr_toNat : (mkHdr o s i).toNat = o.toNat * 2 ^ 24 + s.toNat * 2 ^ 20 + i.toNat := by
  have := i.isLt; have := s.isLt; have := o.isLt
  simp only [mkHdr, BitVec.toNat_append]
  rw [← Nat.shiftLeft_add_eq_or_of_lt (i := 20) i.isLt,
    ← Nat.shiftLeft_add_eq_or_of_lt (i := 24) (by rw [Nat.shiftLeft_eq]; omega)]
  simp only [Nat.shiftLeft_eq]; omega

@[simp] theorem hdrOpc_mkHdr : hdrOpc (mkHdr o s i) = o := by
  have := i.isLt; have := s.isLt
  apply BitVec.eq_of_toNat_eq
  rw [hdrOpc, BitVec.extractLsb'_toNat, mkHdr_toNat, Nat.shiftRight_eq_div_pow]
  omega

@[simp] theorem hdrSel_mkHdr : hdrSel (mkHdr o s i) = s := by
  have := i.isLt
  apply BitVec.eq_of_toNat_eq
  rw [hdrSel, BitVec.extractLsb'_toNat, mkHdr_toNat, Nat.shiftRight_eq_div_pow]
  omega

@[simp] theorem hdrIdx_mkHdr : hdrIdx (mkHdr o s i) = i := by
  apply BitVec.eq_of_toNat_eq
  rw [hdrIdx, BitVec.extractLsb'_toNat, mkHdr_toNat, Nat.shiftRight_eq_div_pow]
  omega

@[simp] theorem mkHdr_fields (h : Word) : mkHdr (hdrOpc h) (hdrSel h) (hdrIdx h) = h := by
  apply BitVec.eq_of_toNat_eq
  have := h.isLt
  simp only [mkHdr_toNat, hdrOpc, hdrSel, hdrIdx, BitVec.extractLsb'_toNat, Nat.shiftRight_eq_div_pow]
  omega

@[simp] theorem Opcode.ofCode_code (op : Opcode) : Opcode.ofCode op.code = some op := by cases op <;> decide

theorem Opcode.code_ofCode {c : BitVec 8} {op : Opcode} (h : Opcode.ofCode c = some op) : op.code = c := by
  have := List.find?_some h
  simpa using this

/-- A packet decodes by its opcode and fields. -/
theorem decode_packet (op : Opcode) (sel : BitVec 4) (idx : BitVec 20) (args : List Word) :
    decode (packet op sel idx args) = decodeFields op sel idx args := by
  simp [decode, packet]

end Sys2Proof
end

