-- ==== Sys2Proof/Laws/Exec.lean ====
section
/-! SUPPORT. What executing a command can do, once: every command but `INIT` is a list of checks and an Operation
(40_config_registers.md R120), and every command answers a next state. -/

namespace Sys2Proof.Machine

/-- The checks of a command, in the order its rule gives them. -/
def checks : Instr → State → List (Bool × Status)
  | .nop, _ | .init, _ | .rdreg _, _ => []
  | .wrreg r v, s => [(illegalWrite r v, .illegal), haltedCheck s, (regReadOnly r, .rdonly)]
  | .wrs _, s | .rdo, s | .peaks, s | .rds, s => readyChecks s
  | .xfmFft, s => readyChecks s ++ [(s.mode != .waveform, .state)]
  | .xfmIfft, s => readyChecks s ++ [(s.mode != .spectrum, .state)]
  | .getbin a k, s => readyChecks s ++ [indexCheck k (binLen s a)]
  | .setbin a k _, s => readyChecks s ++ [(arrayReadOnly a, .rdonly), indexCheck k s.act.numBins]
  | .wtgen _ kind, s => (!Config.waveKindDefined kind.toNat, .illegal) :: readyChecks s
  | .getwt k, s => readyChecks s ++ [indexCheck k (s.act.tabLen + 1)]
  | .ostart j a f p, s | .oupd j a f p _, s => slotChecks s j ++ oscOperandChecks s a f p
  | .ostop j, s | .onext j, s | .oact _ j, s | .getosc _ j, s => slotChecks s j
  | .getpk _ k, s => readyChecks s ++ [indexCheck k s.pkCount]

/-- The state a command leaves when its checks pass; for `INIT`, when the configuration is legal. -/
def operation : Instr → State → State
  | .nop, s => respondOk 0 s
  | .init, s => respondOk 0 (establish (latch s.staged) (discard s))
  | .rdreg r, s => respondOk (readReg s r) s
  | .wrreg r v, s => respondOk 0 (writeReg s v r)
  | .wrs x, s => respondOk (flagWord (frameReady s)) (pushSample x s)
  | .rdo, s => respondOk s.outRing.front { s with outRing := s.outRing.pop }
  | .xfmFft, s => respondOk 0 (forwardTransform s)
  | .xfmIfft, s => respondOk 0 (inverseTransform s)
  | .getbin a k, s => respondOk (readAt (binArray s a) k.toNat) s
  | .setbin a k v, s => respondOk 0 (storeBin a k.toNat v s)
  | .wtgen force kind, s =>
    if s.wtValid && s.wtKind == kind.setWidth 32 && !force then respondOk 0 s
    else respondOk 1 (regenerate (kind.setWidth 32) s)
  | .getwt k, s => respondOk (readAt s.wt k.toNat) s
  | .ostart j a f p, s => respondOk 0 (s.setSlot j.toNat ((s.slot j.toNat).start s.num s.act.tabLen a f p))
  | .ostop j, s => respondOk 0 (s.setSlot j.toNat ((s.slot j.toNat).stop s.num))
  | .oupd j a f p n, s => respondOk 0 (s.setSlot j.toNat ((s.slot j.toNat).update s.num a f p n))
  | .onext j, s =>
    respondOk ((s.slot j.toNat).sample s.num s.wt)
      (s.setSlot j.toNat ((s.slot j.toNat).advance s.num s.act.tabLen s.act.sampleRate))
  | .oact on j, s => respondOk 0 (s.setSlot j.toNat { s.slot j.toNat with active := on })
  | .getosc f j, s => respondOk (oscField (s.slot j.toNat) f) s
  | .peaks, s => respondOk (u32 (findPeaks s).length) { s with pk := findPeaks s }
  | .getpk f k, s => respondOk (pkField (s.peak k.toNat) f) s
  | .rds, s => respondOk (mixOutput s) { s with osc := mixSlots s }

/-- A command other than `INIT` is its checks and its Operation. -/
theorem exec_eq {i : Instr} (h : i ≠ .init) (s : State) :
    exec i s = runChecked (checks i s) s (operation i s) := by
  cases i <;> first | rfl | exact absurd rfl h

theorem exec_init_legal {s : State} (h : configLegal s.params s.staged = true) :
    exec .init s = .next (operation .init s) := by simp [exec, execInit, operation, h]

theorem exec_init_illegal {s : State} (h : configLegal s.params s.staged = false) :
    exec .init s = .next (raiseError .config (discard s)) := by simp [exec, execInit, h]

/-- No check carries the code `OK`. -/
theorem checks_code_ne_ok (i : Instr) (s : State) : ∀ x ∈ checks i s, x.2 ≠ .ok := by
  cases i <;> simp [checks, readyChecks, haltedCheck, slotChecks, indexCheck, oscOperandChecks]

/-- Everything a command can do. -/
theorem exec_cases {i : Instr} {s t : State} (h : exec i s = .next t) :
    (i = .init ∧ configLegal s.params s.staged = true ∧ t = operation .init s)
    ∨ (i = .init ∧ configLegal s.params s.staged = false ∧ t = raiseError .config (discard s))
    ∨ (i ≠ .init ∧ firstError (checks i s) = none ∧ t = operation i s)
    ∨ (i ≠ .init ∧ ∃ c, firstError (checks i s) = some c ∧ c ≠ .ok ∧ t = raiseError c s) := by
  by_cases hi : i = .init
  · subst hi
    cases hc : configLegal s.params s.staged with
    | true => rw [exec_init_legal hc] at h; cases h; exact .inl ⟨rfl, rfl, rfl⟩
    | false => rw [exec_init_illegal hc] at h; cases h; exact .inr (.inl ⟨rfl, rfl, rfl⟩)
  · rw [exec_eq hi] at h
    obtain ⟨hn, rfl⟩ | ⟨c, hc, rfl⟩ := runChecked_cases h
    · exact .inr (.inr (.inl ⟨hi, hn, rfl⟩))
    · exact .inr (.inr (.inr ⟨hi, c, hc, fun e => checks_code_ne_ok i s _ (firstError_mem hc) e, rfl⟩))

/-- Every command answers a next state: never a fault, never a refusal (60_exceptions.md R293). -/
theorem exec_next (i : Instr) (s : State) : ∃ t, exec i s = .next t := by
  by_cases hi : i = .init
  · subst hi
    cases hc : configLegal s.params s.staged with
    | true => exact ⟨_, exec_init_legal hc⟩
    | false => exact ⟨_, exec_init_illegal hc⟩
  · rw [exec_eq hi]; exact runChecked_next _ _ _

/-- No command changes the implementation parameters (00_scope.md R7). -/
theorem exec_params {i : Instr} {s t : State} (h : exec i s = .next t) : t.params = s.params := by
  obtain ⟨-, -, rfl⟩ | ⟨-, -, rfl⟩ | ⟨-, -, rfl⟩ | ⟨-, -, -, -, rfl⟩ := exec_cases h
  · rfl
  · rfl
  · cases i with
    | wrreg r v => simp [operation]
    | setbin a k v => simp [operation]
    | wtgen force kind => simp only [operation]; split <;> rfl
    | _ => rfl
  · rfl

/-- No command changes the numeric type. -/
theorem exec_num {i : Instr} {s t : State} (h : exec i s = .next t) : t.num = s.num := by
  rw [State.num, State.num, exec_params h]

/-- Every step answers a next state. -/
theorem step_next (s : State) : ∃ t, step s = .next t := by
  unfold step
  split
  · exact ⟨_, rfl⟩
  · exact ⟨_, rfl⟩
  · unfold runPacket
    split
    · exact exec_next _ _
    · exact ⟨_, rfl⟩

end Sys2Proof.Machine
end

