-- ==== Sys2Proof/Laws/Numeric.lean ====
section
/-! SUPPORT. The numeric types. Of binary32: comparisons are a strict order on values that are not NaN, rounding is to
the nearest integer with ties to even, the integer square root is one, and the pinned values of the library functions.
Of any lawful type: its order, and the phase guard. -/

namespace Sys2Proof.F32

/-! ## Comparisons -/

theorem lt_iff {a b : NUM} : lt a b = true ↔ isNaN a = false ∧ isNaN b = false ∧ scaled a < scaled b := by
  simp [lt, and_assoc]

theorem le_iff {a b : NUM} : le a b = true ↔ isNaN a = false ∧ isNaN b = false ∧ scaled a ≤ scaled b := by
  simp [le, and_assoc]

theorem eq_iff {a b : NUM} : eq a b = true ↔ isNaN a = false ∧ isNaN b = false ∧ scaled a = scaled b := by
  simp [eq, and_assoc]

@[simp] theorem le_self (a : NUM) : le a a = !isNaN a := by simp [le]

@[simp] theorem lt_irrefl (a : NUM) : lt a a = false := by simp [lt]

theorem lt_asymm {a b : NUM} (h : lt a b = true) : lt b a = false := by
  rw [lt_iff] at h
  simp only [lt, h.1, h.2.1, Bool.not_false, Bool.true_and, decide_eq_false_iff_not]
  omega

theorem lt_trans {a b c : NUM} (hab : lt a b = true) (hbc : lt b c = true) : lt a c = true := by
  rw [lt_iff] at *
  exact ⟨hab.1, hbc.2.1, hab.2.2.trans hbc.2.2⟩

theorem le_of_lt {a b : NUM} (h : lt a b = true) : le a b = true := by
  rw [lt_iff] at h
  exact le_iff.2 ⟨h.1, h.2.1, h.2.2.le⟩

theorem lt_of_le_of_lt {a b c : NUM} (hab : le a b = true) (hbc : lt b c = true) : lt a c = true := by
  rw [le_iff] at hab
  rw [lt_iff] at *
  exact ⟨hab.1, hbc.2.1, hab.2.2.trans_lt hbc.2.2⟩

/-- Of two values that are not NaN, one is less or the other is not greater. -/
theorem lt_or_le {a b : NUM} (ha : isNaN a = false) (hb : isNaN b = false) : lt a b = true ∨ le b a = true := by
  rw [lt_iff, le_iff]
  rcases Int.lt_or_le (scaled a) (scaled b) with h | h
  · exact .inl ⟨ha, hb, h⟩
  · exact .inr ⟨hb, ha, h⟩

/-! ## Rounding -/

/-- `roundDiv` is at most half a unit away from the quotient. -/
theorem roundDiv_near (num : Nat) {den : Nat} (h : 0 < den) :
    2 * (roundDiv num den * den) ≤ 2 * num + den ∧ 2 * num ≤ 2 * (roundDiv num den * den) + den := by
  have hd := Nat.div_add_mod num den
  have hm := Nat.mod_lt num h
  rw [Nat.mul_comm] at hd
  unfold roundDiv
  simp only [Bool.or_eq_true, Bool.and_eq_true, beq_iff_eq, decide_eq_true_eq]
  split
  · rw [Nat.add_mul, Nat.one_mul]; omega
  · omega

/-- A tie goes to the even quotient. -/
theorem roundDiv_even {num den : Nat} (h : 0 < den)
    (tie : 2 * num = 2 * (roundDiv num den * den) + den ∨ 2 * num + den = 2 * (roundDiv num den * den)) :
    roundDiv num den % 2 = 0 := by
  have hd := Nat.div_add_mod num den
  have hm := Nat.mod_lt num h
  rw [Nat.mul_comm] at hd
  unfold roundDiv at *
  simp only [Bool.or_eq_true, Bool.and_eq_true, beq_iff_eq, decide_eq_true_eq] at *
  split at tie
  · rw [if_pos (by assumption)]
    rw [Nat.add_mul, Nat.one_mul] at tie
    omega
  · rw [if_neg (by assumption)]
    omega

@[simp] theorem roundQuanta_zero (den : Nat) : roundQuanta 0 den = 0 := by
  simp [roundQuanta, roundDiv]

theorem roundQuanta_le (num den : Nat) : roundQuanta num den ≤ infBits := Nat.min_le_right _ _

/-! ## The integer square root -/

theorem isqrtDigits_sq_le (n : Nat) : ∀ k acc, acc * acc ≤ n → isqrtDigits n k acc * isqrtDigits n k acc ≤ n
  | 0, _, h => h
  | k + 1, acc, h => by
    rw [isqrtDigits]
    split
    · exact isqrtDigits_sq_le n k _ ‹_›
    · exact isqrtDigits_sq_le n k _ h

theorem isqrtDigits_lt_sq (n : Nat) : ∀ k acc, n < (acc + 2 ^ k) * (acc + 2 ^ k) →
    n < (isqrtDigits n k acc + 1) * (isqrtDigits n k acc + 1)
  | 0, acc, h => by simpa [isqrtDigits] using h
  | k + 1, acc, h => by
    have e : acc + 2 ^ (k + 1) = acc + 2 ^ k + 2 ^ k := by ring
    rw [isqrtDigits]
    split
    · exact isqrtDigits_lt_sq n k _ (by rw [← e]; exact h)
    · exact isqrtDigits_lt_sq n k _ (by omega)

/-- `isqrt n` is the greatest integer whose square is at most `n`. -/
theorem isqrt_spec {n : Nat} (h : n < 2 ^ 214 * 2 ^ 214) : isqrt n * isqrt n ≤ n ∧ n < (isqrt n + 1) * (isqrt n + 1) :=
  ⟨isqrtDigits_sq_le n 214 0 (by omega),
   isqrtDigits_lt_sq n 214 0 (by rw [Nat.zero_add]; exact h)⟩

/-! ## Encoding -/

theorem frac_lt (x : NUM) : frac x < 2 ^ 23 := Nat.mod_lt _ (by norm_num)

theorem expo_lt (x : NUM) : expo x < 256 := Nat.mod_lt _ (by norm_num)

/-- The magnitude bits of a packed word. -/
theorem pack_toNat {s : Bool} {b : Nat} (h : b < 2 ^ 31) : (pack s b).toNat = b + if s then 2 ^ 31 else 0 := by
  cases s <;> simp [pack] <;> omega

theorem expo_pack {s : Bool} {b : Nat} (h : b < 2 ^ 31) : expo (pack s b) = b / 2 ^ 23 := by
  rw [expo, pack_toNat h]
  cases s
  · simp; omega
  · simp; omega

theorem frac_pack {s : Bool} {b : Nat} (h : b < 2 ^ 31) : frac (pack s b) = b % 2 ^ 23 := by
  rw [frac, pack_toNat h]
  cases s
  · simp
  · simp; omega

theorem sign_eq (x : NUM) : sign x = decide (2 ^ 31 ≤ x.toNat) := by
  have := x.isLt
  rw [sign, BitVec.getLsbD, Nat.testBit_eq_decide_div_mod_eq]
  simp only [decide_eq_decide]
  omega

theorem sign_pack {s : Bool} {b : Nat} (h : b < 2 ^ 31) : sign (pack s b) = s := by
  rw [sign_eq, pack_toNat h]
  cases s
  · simp; omega
  · simp

/-- A rounded magnitude is never a NaN. -/
theorem isNaN_pack {s : Bool} {b : Nat} (h : b ≤ infBits) : isNaN (pack s b) = false := by
  have h1 : b < 2 ^ 31 := by unfold infBits at h; omega
  rw [isNaN, expo_pack h1, frac_pack h1]
  unfold infBits at h
  simp only [Bool.and_eq_false_imp, beq_iff_eq, bne_eq_false_iff_eq]
  omega

@[simp] theorem isNaN_nan (op : Config.NumOp) (a b : NUM) : isNaN (nan op a b) = true := by
  have hc := (Config.nanChoice op a b).2.isLt
  have h1 : infBits + max 1 (Config.nanChoice op a b).2.toNat < 2 ^ 31 := by unfold infBits; omega
  rw [nan, isNaN, expo_pack h1, frac_pack h1]
  unfold infBits
  simp only [Bool.and_eq_true, beq_iff_eq, bne_iff_ne]
  omega

/-! ## Integers -/

theorem isNaN_ofInt (z : Int) : isNaN (ofInt z) = false := isNaN_pack (roundQuanta_le _ _)

/-! ## Pinned values (93_implementation_defined.md U9) -/

@[simp] theorem log10_one : log10 one = zero := rfl
@[simp] theorem log10_inf : log10 inf = inf := rfl
@[simp] theorem pow10_zero : pow10 zero = one := rfl
@[simp] theorem sin_zero : sin zero = zero := rfl
@[simp] theorem cos_zero : cos zero = one := rfl
@[simp] theorem exp_zero : exp zero = one := rfl

/-- What `admitted` answers has every property its test demands and its default has. -/
theorem admitted_spec {ok : Bool} {r d : NUM} {p : NUM → Prop} (h : ok = true → p r) (hd : p d) :
    p (admitted ok r d) := by
  cases ok <;> simp_all [admitted]

end Sys2Proof.F32

namespace Sys2Proof

/-! ## A lawful numeric type (00_scope.md R7, R12) -/

namespace NumType.Lawful

variable {N : NumType} (h : N.Lawful)
include h

theorem lt_iff {a b : NUM} : N.lt a b = true ↔ N.le a b = true ∧ N.le b a = false := by simp [h.lt_eq]

theorem eq_iff {a b : NUM} : N.eq a b = true ↔ N.le a b = true ∧ N.le b a = true := by simp [h.eq_eq]

theorem le_of_lt {a b : NUM} (hab : N.lt a b = true) : N.le a b = true := (h.lt_iff.1 hab).1

theorem lt_asymm {a b : NUM} (hab : N.lt a b = true) : N.lt b a = false := by
  rw [h.lt_eq, (h.lt_iff.1 hab).2, Bool.false_and]

@[simp] theorem lt_irrefl (a : NUM) : N.lt a a = false := by rw [h.lt_eq]; cases N.le a a <;> rfl

theorem lt_of_le_of_lt {a b c : NUM} (hab : N.le a b = true) (hbc : N.lt b c = true) : N.lt a c = true := by
  rw [h.lt_iff] at *
  refine ⟨h.le_trans _ _ _ hab hbc.1, Bool.eq_false_iff.2 fun hca => ?_⟩
  exact Bool.eq_false_iff.1 hbc.2 (h.le_trans _ _ _ hca hab)

theorem lt_trans {a b c : NUM} (hab : N.lt a b = true) (hbc : N.lt b c = true) : N.lt a c = true :=
  h.lt_of_le_of_lt (h.le_of_lt hab) hbc

/-- Of two numbers, one is less or the other is not greater. -/
theorem lt_or_le {a b : NUM} (ha : N.le a a = true) (hb : N.le b b = true) : N.lt a b = true ∨ N.le b a = true := by
  rw [h.lt_iff]
  cases hba : N.le b a with
  | true => exact .inr rfl
  | false => exact .inl ⟨(h.le_total a b ha hb).resolve_right (by simp [hba]), rfl⟩

theorem zero_le_zero : N.le N.zero N.zero = true := h.finite_number _ h.zero_finite

end NumType.Lawful

end Sys2Proof

namespace Sys2Proof.Machine

/-! ## The phase guard (45_oscillator.md R210) -/

/-- Everything the guard can answer: its argument where that is in `[0, ofNat T)`, else `+0`. -/
theorem phaseGuard_cases {N : NumType} (hN : N.Lawful) (t : Nat) (x : NUM) :
    (phaseInTable N t x = true ∧ phaseGuard N t x = x) ∨ phaseGuard N t x = N.zero := by
  unfold phaseGuard phaseInTable
  cases h1 : N.lt x (N.ofNat t) with
  | false => simp
  | true =>
    cases h2 : N.lt x N.zero with
    | true => simp
    | false =>
      have hx := (hN.le_number _ _ (hN.le_of_lt h1)).1
      rcases hN.lt_or_le hx hN.zero_le_zero with h | h
      · simp [h] at h2
      · simp [h]

/-- `+0` is a position in every legal table. -/
theorem phaseInTable_zero {N : NumType} (hN : N.Lawful) {t : Nat} (h : 1 ≤ t) (h' : t ≤ 2 ^ 20) :
    phaseInTable N t N.zero = true := by
  simp [phaseInTable, hN.zero_le_zero, hN.ofNat_pos t h h']

/-- What the guard answers is a position in the table. -/
theorem phaseInTable_guard {N : NumType} (hN : N.Lawful) {t : Nat} (h : 1 ≤ t) (h' : t ≤ 2 ^ 20) (x : NUM) :
    phaseInTable N t (phaseGuard N t x) = true := by
  rcases phaseGuard_cases hN t x with ⟨hx, e⟩ | e
  · rw [e]; exact hx
  · rw [e]; exact phaseInTable_zero hN h h'

end Sys2Proof.Machine
end

