-- ==== Sys2Proof/Laws/PerInstr.lean ====
section
/-! SUPPORT. Statements about every command, one lemma per constructor of `Instr`. -/

/-! ## The shape of an encoded packet: its opcode and its length (30_encoding.md R90, R93, R95) -/

namespace Sys2Proof.Laws.EncodeShape

/-- The opcode of a command (R95). -/
def opcodeOf : Instr → Opcode
  | .nop => .nop
  | .init => .init
  | .rdreg _ => .rdreg
  | .wrreg _ _ => .wrreg
  | .wrs _ => .wrs
  | .rdo => .rdo
  | .xfmFft => .xfm
  | .xfmIfft => .xfm
  | .getbin _ _ => .getbin
  | .setbin _ _ _ => .setbin
  | .wtgen _ _ => .wtgen
  | .getwt _ => .getwt
  | .ostart _ _ _ _ => .ostart
  | .ostop _ => .ostop
  | .oupd _ _ _ _ _ => .oupd
  | .onext _ => .onext
  | .oact _ _ => .oact
  | .getosc _ _ => .getosc
  | .peaks => .peaks
  | .getpk _ _ => .getpk
  | .rds => .rds

/-- The packet of `i` has a header with the opcode of `i`, then as many operand words as the opcode asks for. -/
def Statement (i : Instr) : Prop :=
  ∃ h args, encode i = h :: args ∧ hdrOpc h = (opcodeOf i).code ∧ args.length = (opcodeOf i).nargs

/-- A packet built for an opcode has that shape. -/
theorem of_packet {i : Instr} {sel : BitVec 4} {idx : BitVec 20} {args : List Word}
    (he : encode i = packet (opcodeOf i) sel idx args) (hl : args.length = (opcodeOf i).nargs) : Statement i :=
  ⟨_, args, he, hdrOpc_mkHdr _ _ _, hl⟩

theorem nop : Statement .nop := of_packet rfl rfl
theorem init : Statement .init := of_packet rfl rfl
theorem rdreg (r : Reg) : Statement (.rdreg r) := of_packet rfl rfl
theorem wrreg (r : Reg) (v : Word) : Statement (.wrreg r v) := of_packet rfl rfl
theorem wrs (x : NUM) : Statement (.wrs x) := of_packet rfl rfl
theorem rdo : Statement .rdo := of_packet rfl rfl
theorem xfmFft : Statement .xfmFft := of_packet rfl rfl
theorem xfmIfft : Statement .xfmIfft := of_packet rfl rfl
theorem getbin (a : BinArray) (k : BitVec 20) : Statement (.getbin a k) := of_packet rfl rfl
theorem setbin (a : BinArray) (k : BitVec 20) (v : NUM) : Statement (.setbin a k v) := of_packet rfl rfl
theorem wtgen (force : Bool) (kind : BitVec 8) : Statement (.wtgen force kind) := of_packet rfl rfl
theorem getwt (k : BitVec 20) : Statement (.getwt k) := of_packet rfl rfl
theorem ostart (j : BitVec 20) (a f p : NUM) : Statement (.ostart j a f p) := of_packet rfl rfl
theorem ostop (j : BitVec 20) : Statement (.ostop j) := of_packet rfl rfl
theorem oupd (j : BitVec 20) (a f p : NUM) (n : Word) : Statement (.oupd j a f p n) := of_packet rfl rfl
theorem onext (j : BitVec 20) : Statement (.onext j) := of_packet rfl rfl
theorem oact (on : Bool) (j : BitVec 20) : Statement (.oact on j) := of_packet rfl rfl
theorem getosc (f : OscField) (j : BitVec 20) : Statement (.getosc f j) := of_packet rfl rfl
theorem peaks : Statement .peaks := of_packet rfl rfl
theorem getpk (f : PkField) (k : BitVec 20) : Statement (.getpk f k) := of_packet rfl rfl
theorem rds : Statement .rds := of_packet rfl rfl

end Sys2Proof.Laws.EncodeShape
end

