-- ==== Sys2Proof/Laws/Rounding.lean ====
section
/-! SUPPORT. What rounding to binary32 answers: the bits `roundQuanta` makes stand for the nearest significand at its
scale, integers of at most 24 bits are exact, and binary32 is lawful. -/

namespace Sys2Proof.F32

/-- The magnitude in quanta that magnitude bits encode. -/
def bitQuanta (b : Nat) : Nat := if b / 2 ^ 23 = 0 then b % 2 ^ 23 else (2 ^ 23 + b % 2 ^ 23) * 2 ^ (b / 2 ^ 23 - 1)

theorem quanta_pack {s : Bool} {b : Nat} (h : b < 2 ^ 31) : quanta (pack s b) = bitQuanta b := by
  rw [quanta, expo_pack h, frac_pack h, bitQuanta]

/-- A significand of at most `2^24` and its scale, read back from the bits that encode them. -/
theorem bitQuanta_encode {e r : Nat} (h : r ≤ 2 ^ 24) (h' : e = 0 ∨ 2 ^ 23 ≤ r) : bitQuanta (e * 2 ^ 23 + r) = r * 2 ^ e := by
  have hm : (e * 2 ^ 23 + r) % 2 ^ 23 = r % 2 ^ 23 := by omega
  have hd : (e * 2 ^ 23 + r) / 2 ^ 23 = e + r / 2 ^ 23 := by omega
  rw [bitQuanta, hm, hd]
  rcases Nat.lt_or_ge r (2 ^ 23) with hr | hr
  · obtain rfl : e = 0 := by omega
    rw [Nat.div_eq_of_lt hr, if_pos rfl, Nat.mod_eq_of_lt hr]; simp
  · rcases Nat.lt_or_ge r (2 ^ 24) with hr2 | hr2
    · have h1 : r / 2 ^ 23 = 1 := by omega
      have h2 : 2 ^ 23 + r % 2 ^ 23 = r := by omega
      rw [h1, h2, if_neg (by omega)]; simp
    · obtain rfl : r = 2 ^ 24 := by omega
      have h1 : (2 ^ 24 : Nat) / 2 ^ 23 = 2 := by norm_num
      rw [h1, if_neg (by omega)]
      rw [show (2 ^ 24 : Nat) % 2 ^ 23 = 0 by norm_num, show e + 2 - 1 = e + 1 by omega, pow_succ]
      ring

/-- How many binary places rounding drops. -/
def droppedPlaces (num den : Nat) : Nat := (num / den).log2 - 23

/-- The rounded significand is at most `2^24`, and at least `2^23` where places were dropped. -/
theorem significand_range {num den : Nat} :
    roundDiv num (den * 2 ^ droppedPlaces num den) ≤ 2 ^ 24
    ∧ (droppedPlaces num den = 0 ∨ 2 ^ 23 ≤ roundDiv num (den * 2 ^ droppedPlaces num den)) := by
  have hle : ∀ n d, n / d ≤ roundDiv n d ∧ roundDiv n d ≤ n / d + 1 := by
    intro n d; unfold roundDiv; simp only; split <;> omega
  obtain ⟨h1, h2⟩ := hle num (den * 2 ^ droppedPlaces num den)
  rw [← Nat.div_div_eq_div_mul] at h1 h2
  have hlt : num / den < 2 ^ ((num / den).log2 + 1) := Nat.lt_log2_self
  have hp : num / den / 2 ^ droppedPlaces num den < 2 ^ 24 := by
    rw [Nat.div_lt_iff_lt_mul (by positivity), ← pow_add]
    exact hlt.trans_le (Nat.pow_le_pow_right (by omega) (by unfold droppedPlaces; omega))
  refine ⟨by omega, ?_⟩
  rcases Nat.eq_zero_or_pos (droppedPlaces num den) with h0 | h0
  · exact .inl h0
  · right
    have hq : num / den ≠ 0 := by
      intro h; unfold droppedPlaces at h0; rw [h] at h0; simp at h0
    refine le_trans ?_ h1
    rw [Nat.le_div_iff_mul_le (by positivity), ← pow_add]
    refine le_trans (Nat.pow_le_pow_right (by omega) ?_) (Nat.log2_self_le hq)
    unfold droppedPlaces at *; omega

/-- The value of a rounded magnitude that did not overflow. -/
theorem quanta_roundQuanta {num den : Nat} (s : Bool) (h : roundQuanta num den < infBits) :
    quanta (pack s (roundQuanta num den))
      = roundDiv num (den * 2 ^ droppedPlaces num den) * 2 ^ droppedPlaces num den := by
  have hb : roundQuanta num den < 2 ^ 31 := by unfold infBits at h; omega
  rw [quanta_pack hb]
  have : roundQuanta num den = droppedPlaces num den * 2 ^ 23 + roundDiv num (den * 2 ^ droppedPlaces num den) := by
    unfold roundQuanta at *; simp only at *; rw [← droppedPlaces] at *; omega
  rw [this, bitQuanta_encode significand_range.1 significand_range.2]

/-- A value with a significand of at most 24 bits is rounded to itself. -/
theorem roundDiv_exact {n d : Nat} (hd : 0 < d) : roundDiv (n * d) d = n := by
  unfold roundDiv; simp [Nat.mul_div_cancel _ hd]; omega

/-- An integer of at most 24 bits is represented exactly. -/
theorem roundQuanta_exact {n : Nat} (h : n < 2 ^ 24) (s : Bool) :
    roundQuanta (n * quantaPerOne) 1 < infBits ∧ quanta (pack s (roundQuanta (n * quantaPerOne) 1)) = n * quantaPerOne := by
  set num := n * quantaPerOne with hnum
  have he : droppedPlaces num 1 ≤ 149 := by
    unfold droppedPlaces
    rw [Nat.div_one]
    rcases Nat.eq_zero_or_pos num with h0 | h0
    · rw [h0]; simp
    · have : num.log2 < 173 := by
        rw [Nat.log2_lt (by omega)]
        calc num < 2 ^ 24 * 2 ^ 149 := Nat.mul_lt_mul_of_pos_right h (by unfold quantaPerOne; positivity)
          _ = 2 ^ 173 := by rw [← pow_add]
      omega
  have hx : roundDiv num (1 * 2 ^ droppedPlaces num 1) * 2 ^ droppedPlaces num 1 = num := by
    have : num = n * 2 ^ (149 - droppedPlaces num 1) * 2 ^ droppedPlaces num 1 := by
      rw [mul_assoc, ← pow_add, Nat.sub_add_cancel he, hnum, quantaPerOne]
    rw [Nat.one_mul]
    conv_lhs => enter [1, 1]; rw [this]
    rw [roundDiv_exact (by positivity), ← this]
  have hr := (significand_range (num := num) (den := 1)).1
  have hlt : roundQuanta num 1 < infBits := by
    unfold roundQuanta; simp only; rw [← droppedPlaces]; unfold infBits
    refine Nat.lt_of_le_of_lt (Nat.min_le_left _ _) ?_
    omega
  exact ⟨hlt, by rw [quanta_roundQuanta s hlt, hx]⟩

/-- `ofNat` is exact below `2^24`. -/
theorem scaled_ofNat {n : Nat} (h : n < 2 ^ 24) : scaled (ofNat n) = n * (quantaPerOne : Int) := by
  have hb := (roundQuanta_exact h false)
  have hneg : decide ((n : Int) < 0) = false := by simp
  have hb31 : roundQuanta (n * quantaPerOne) 1 < 2 ^ 31 := by have := hb.1; unfold infBits at this; omega
  rw [ofNat, ofInt, hneg, Int.natAbs_natCast, scaled, sign_pack hb31]
  simp [hb.2]

/-! ## Binary32 is a lawful numeric type (00_scope.md R7, R12) -/

@[simp] theorem isNaN_ofNat (n : Nat) : isNaN (ofNat n) = false := isNaN_ofInt n

/-- A finite value is no NaN. -/
theorem isNaN_of_isFinite {x : NUM} (h : isFinite x = true) : isNaN x = false := by
  unfold isFinite at h
  simp [isNaN, bne_iff_ne.1 h]

/-- Half of a finite value that is not negative is not negative. -/
theorem zero_le_half {a : NUM} (hf : isFinite a = true) (h : lt zero a = true) : le zero (div a two) = true := by
  have hs : sign a = false := by
    cases hs : sign a with
    | false => rfl
    | true => have := (lt_iff.1 h).2.2; simp [scaled, hs] at this; simp [show quanta zero = 0 from rfl] at this; omega
  have hi : isInf a = false := by unfold isFinite at hf; simp [isInf, bne_iff_ne.1 hf]
  have hb := roundQuanta_le (quanta a * quantaPerOne) (quanta two)
  have hd : div a two = pack false (roundQuanta (quanta a * quantaPerOne) (quanta two)) := by
    unfold div
    simp [isNaN_of_isFinite hf, hi, hs, show isNaN two = false from rfl, show isInf two = false from rfl,
      show isZero two = false from rfl, show sign two = false from rfl]
  have h31 : roundQuanta (quanta a * quantaPerOne) (quanta two) < 2 ^ 31 := by unfold infBits at hb; omega
  rw [hd, le_iff]
  refine ⟨rfl, isNaN_pack hb, ?_⟩
  rw [show scaled zero = 0 from rfl, scaled, sign_pack h31]
  exact Int.natCast_nonneg _

/-- Binary32 is a lawful numeric type. -/
theorem lawful : type.Lawful where
  le_number a b h := by
    have h := le_iff.1 h
    simp [type, h.1, h.2.1]
  le_total a b ha hb := by
    simp only [type, le_self, Bool.not_eq_true'] at ha hb
    simp only [type, le_iff, ha, hb, true_and]
    omega
  le_trans a b c hab hbc := by
    have hab := le_iff.1 hab
    have hbc := le_iff.1 hbc
    exact le_iff.2 ⟨hab.1, hbc.2.1, hab.2.2.trans hbc.2.2⟩
  lt_eq a b := by
    simp only [type, lt, le]
    cases isNaN a <;> cases isNaN b <;> simp
    rw [Bool.eq_iff_iff]
    simp only [decide_eq_true_eq, Bool.and_eq_true, Bool.not_eq_true', decide_eq_false_iff_not]
    omega
  eq_eq a b := by
    simp only [type, eq, le]
    cases isNaN a <;> cases isNaN b <;> simp
    rw [Bool.eq_iff_iff]
    simp only [decide_eq_true_eq, Bool.and_eq_true]
    omega
  finite_number a h := by simp [type, isNaN_of_isFinite h]
  zero_finite := rfl
  ofNat_pos n h h' := by
    refine lt_iff.2 ⟨rfl, isNaN_ofNat n, ?_⟩
    show 0 < scaled (ofNat n)
    rw [scaled_ofNat (by omega)]
    have : (0 : Int) < quantaPerOne := by unfold quantaPerOne; positivity
    positivity
  half_nonneg _ := zero_le_half
  floor_index a n hn h0 hlt := by
    have h0 : 0 ≤ scaled a := (le_iff.1 h0).2.2
    have hlt : scaled a < scaled (ofNat n) := (lt_iff.1 hlt).2.2
    rw [scaled_ofNat (by omega)] at hlt
    have hq : (0 : Int) < quantaPerOne := by unfold quantaPerOne; positivity
    exact ⟨Int.ediv_nonneg h0 hq.le, Int.ediv_lt_of_lt_mul hq hlt⟩

end Sys2Proof.F32

namespace Sys2Proof

/-- The default parameters are legal (00_scope.md R7). -/
theorem Params.default_legal : Params.Legal {} where
  num := F32.lawful
  wsPow2 := by decide
  wsMin := by decide
  wsIndex := by decide
  tsMin := by decide
  tsIndex := by decide
  noscMin := by decide
  noscIndex := by decide

end Sys2Proof
end

