-- ==== Sys2Proof/Machine/Assembler.lean ====
section
/-! DEFINITION. The assembler's side of a command (30_encoding.md R100, R101): the text form of a command and the
pseudo-commands. The block never sees either. -/

namespace Sys2Proof.Assembler

open Sys2Proof.Machine

/-! ## Pseudo-commands (R101) -/

/-- The pseudo-commands of R101. -/
inductive Pseudo where
  | write (x : NUM)
  | read
  | fft
  | ifft
  | cfg (name : Reg) (v : Word)
  | setup (kind size hop : Word) (rate : NUM) (pad wave tab : Word)
  | okill (slot : BitVec 20)
  deriving DecidableEq, Repr

/-- The commands a pseudo-command expands to. -/
def Pseudo.expand : Pseudo → List Instr
  | .write x => [.wrs x]
  | .read => [.rds]
  | .fft => [.xfmFft]
  | .ifft => [.xfmIfft]
  | .cfg name v => [.wrreg name v]
  | .setup kind size hop rate pad wave tab =>
    [.wrreg .cfgWinKind kind, .wrreg .cfgWinSize size, .wrreg .cfgHopFactor hop, .wrreg .cfgSrate rate,
     .wrreg .cfgPad pad, .wrreg .cfgWaveKind wave, .wrreg .cfgTabSize tab, .init]
  | .okill j => [.ostop j]

/-- Issue commands in order, stopping at the first response that is not `OK` (R101, `SETUP`). -/
def runUntilError : List Instr → State → Result
  | [], s => .next s
  | i :: is, s =>
    match exec i s with
    | .next t => if (t.response.map Response.status).getD 0 = 0 then runUntilError is t else .next t
    | .fault f => .fault f
    | .refused r => .refused r

/-! ## Text form (R100) -/

/-- The lowest `n` hexadecimal digits of a number, most significant first. -/
def hexDigits : Nat → Nat → String
  | 0, _ => ""
  | n + 1, v => hexDigits n (v / 16) ++ String.ofList [Nat.digitChar (v % 16)]

/-- A `NUM` operand as an explicit bit pattern `#0x........`. -/
def numText (x : NUM) : String := "#0x" ++ hexDigits 8 x.toNat

/-- An integer operand, decimal. -/
def intText (n : Nat) : String := toString n

/-- The name of a register (10_state.md R27 to R46). -/
def regText : Reg → String
  | .cfgWinKind => "CFG_WINKIND" | .cfgWinSize => "CFG_WINSIZE" | .cfgHopFactor => "CFG_HOPFACTOR"
  | .cfgSrate => "CFG_SRATE" | .cfgPad => "CFG_PAD" | .cfgWaveKind => "CFG_WAVEKIND"
  | .cfgTabSize => "CFG_TABSIZE" | .cfgMaxTrk => "CFG_MAXTRK" | .cfgGsigma => "CFG_GSIGMA"
  | .cfgThrK => "CFG_THRK" | .cfgPkThr => "CFG_PKTHR" | .cfgEps => "CFG_EPS"
  | .mixCtl => "MIXCTL" | .mixGain => "MIXGAIN"
  | .status => "STATUS" | .errFirst => "ERRFIRST" | .errLast => "ERRLAST" | .errCnt => "ERRCNT"
  | .winSize => "WINSIZE" | .hopSize => "HOPSIZE" | .padSize => "PADSIZE" | .numBins => "NUMBINS"
  | .appetite => "APPETITE" | .count => "COUNT" | .inW => "IN_W" | .inR => "IN_R" | .outW => "OUT_W"
  | .outR => "OUT_R" | .srate => "SRATE" | .binWidth => "BINWIDTH"
  | .maxAmp => "MAXAMP" | .normFactor => "NORMFACTOR" | .denormFactor => "DENORMFACTOR"
  | .pkCount => "PKCOUNT" | .pkCap => "PKCAP" | .nosc => "NOSC" | .tabSize => "TABSIZE" | .wtKind => "WTKIND"
  | .nActive => "NACTIVE" | .id => "ID" | .winKind => "WINKIND" | .hopFactor => "HOPFACTOR" | .pad => "PAD"
  | .eps => "EPS"

/-- A register that holds a `NUM` (10_state.md R26). -/
def regIsNum : Reg → Bool
  | .cfgSrate | .cfgGsigma | .cfgThrK | .cfgPkThr | .cfgEps | .mixGain
  | .srate | .binWidth | .maxAmp | .normFactor | .denormFactor | .eps => true
  | _ => false

/-- The name of an array selector (20_memory.md R70). -/
def arrayText : BinArray → String
  | .amp => "AMP" | .mag => "MAG" | .phs => "PHS" | .frq => "FRQ" | .mthr => "MTHR" | .pthr => "PTHR"
  | .win => "WIN"

/-- The name of an oscillator field (20_memory.md R71). -/
def oscFieldText : OscField → String
  | .ph => "PH" | .amp => "AMP" | .freq => "FREQ" | .tAmp => "TAMP" | .tFreq => "TFREQ" | .tPhase => "TPHASE"
  | .steps => "STEPS" | .active => "ACTIVE" | .ampStep => "AMPSTEP" | .freqStep => "FREQSTEP"

/-- The name of a peak field (20_memory.md R71). -/
def pkFieldText : PkField → String
  | .bin => "BIN" | .off => "OFF" | .mag => "MAG" | .amp => "AMP" | .frq => "FRQ" | .phs => "PHS"

/-- A line of assembler: the mnemonic and its operands separated by commas. -/
def line (mnemonic : String) (operands : List String) : String :=
  if operands.isEmpty then mnemonic else mnemonic ++ " " ++ String.intercalate ", " operands

/-- The text of a command (R100): selector name, index, then operand words. A waveform kind other than 0 has no
name and is written as a number. -/
def text : Instr → String
  | .nop => line "NOP" []
  | .init => line "INIT" []
  | .rdreg r => line "RDREG" [regText r]
  | .wrreg r v => line "WRREG" [regText r, if regIsNum r then numText v else intText v.toNat]
  | .wrs x => line "WRS" [numText x]
  | .rdo => line "RDO" []
  | .xfmFft => line "XFM" ["FFT"]
  | .xfmIfft => line "XFM" ["IFFT"]
  | .getbin a k => line "GETBIN" [arrayText a, intText k.toNat]
  | .setbin a k v => line "SETBIN" [arrayText a, intText k.toNat, numText v]
  | .wtgen force kind =>
    line "WTGEN" ((if kind = 0 then "SINE" else intText kind.toNat) :: if force then ["FORCE"] else [])
  | .getwt k => line "GETWT" [intText k.toNat]
  | .ostart j a f p => line "OSTART" [intText j.toNat, numText a, numText f, numText p]
  | .ostop j => line "OSTOP" [intText j.toNat]
  | .oupd j a f p n => line "OUPD" [intText j.toNat, numText a, numText f, numText p, intText n.toNat]
  | .onext j => line "ONEXT" [intText j.toNat]
  | .oact on j => line "OACT" [if on then "ON" else "OFF", intText j.toNat]
  | .getosc f j => line "GETOSC" [oscFieldText f, intText j.toNat]
  | .peaks => line "PEAKS" []
  | .getpk f k => line "GETPK" [pkFieldText f, intText k.toNat]
  | .rds => line "RDS" []

/-! ## Reading the text form (R100, R101; log entry 25) -/

/-- A blank between the parts of a line. -/
def isBlank (c : Char) : Bool := c == ' ' || c == '\t'

/-- The characters without the blanks around them. -/
def trim (cs : List Char) : List Char := ((cs.dropWhile isBlank).reverse.dropWhile isBlank).reverse

/-- The parts between separators. -/
def pieces (sep : Char) : List Char → List (List Char)
  | [] => [[]]
  | c :: cs =>
    if c == sep then [] :: pieces sep cs
    else
      match pieces sep cs with
      | [] => [[c]]
      | p :: ps => (c :: p) :: ps

/-- The value of a digit in a base up to 16. -/
def digitValue (base : Nat) (c : Char) : Option Nat :=
  let n := c.toNat
  let v := if 48 ≤ n && n ≤ 57 then n - 48 else if 65 ≤ n && n ≤ 70 then n - 55
    else if 97 ≤ n && n ≤ 102 then n - 87 else base
  if v < base then some v else none

/-- The number that at least one digit writes. -/
def readDigits (base : Nat) (cs : List Char) : Option Nat :=
  if cs.isEmpty then none
  else cs.foldl (fun acc c => acc.bind fun n => (digitValue base c).map fun d => n * base + d) (some 0)

/-- A decimal integer, or a hexadecimal one after `0x`. -/
def readNat : List Char → Option Nat
  | '0' :: 'x' :: ds => readDigits 16 ds
  | ds => readDigits 10 ds

/-- An integer operand of `w` bits. -/
def readBits (w : Nat) (cs : List Char) : Option (BitVec w) :=
  (readNat cs).bind fun n => if n < 2 ^ w then some (BitVec.ofNat w n) else none

/-- The decimal literal `a` or `a.b`, assembled to the nearest value of the numeric type. -/
def readDecimal (N : NumType) (negative : Bool) (cs : List Char) : Option NUM :=
  match pieces '.' cs with
  | [a] => (readDigits 10 a).map fun n => N.ofDecimal negative n 0
  | [a, b] =>
    if a.isEmpty || b.isEmpty then none
    else (readDigits 10 (a ++ b)).map fun n => N.ofDecimal negative n b.length
  | _ => none

/-- A `NUM` operand: `#0x` and eight hexadecimal digits, or a decimal literal. -/
def readNum (N : NumType) : List Char → Option NUM
  | '#' :: '0' :: 'x' :: ds => if ds.length = 8 then (readDigits 16 ds).map (BitVec.ofNat 32) else none
  | '-' :: ds => readDecimal N true ds
  | ds => readDecimal N false ds

/-- The item of a closed list with this name. -/
def named {α : Type} (items : List α) (name : α → String) (cs : List Char) : Option α :=
  items.find? fun a => (name a).toList == cs

/-- The value written to a register: a `NUM` for a `NUM` register, else an integer. -/
def readValue (N : NumType) (r : Reg) (cs : List Char) : Option Word :=
  if regIsNum r then readNum N cs else readBits 32 cs

/-- `WRREG` of a named register. -/
def readWrreg (N : NumType) (name value : List Char) : Option Instr :=
  (named Reg.all regText name).bind fun r => (readValue N r value).map (.wrreg r)

/-- `OSTART`. -/
def readOstart (N : NumType) (j a f p : List Char) : Option Instr :=
  match readBits 20 j, readNum N a, readNum N f, readNum N p with
  | some j, some a, some f, some p => some (.ostart j a f p)
  | _, _, _, _ => none

/-- `OUPD`. -/
def readOupd (N : NumType) (j a f p n : List Char) : Option Instr :=
  match readBits 20 j, readNum N a, readNum N f, readNum N p, readBits 32 n with
  | some j, some a, some f, some p, some n => some (.oupd j a f p n)
  | _, _, _, _, _ => none

/-- A command with a named selector and an index. -/
def readIndexed {α : Type} (items : List α) (name : α → String) (make : α → BitVec 20 → Instr) (a k : List Char) :
    Option Instr :=
  match named items name a, readBits 20 k with
  | some a, some k => some (make a k)
  | _, _ => none

/-- The command of a mnemonic and its operands (R100). -/
def readCommand (N : NumType) (mnemonic : String) (operands : List (List Char)) : Option Instr :=
  match mnemonic, operands with
  | "NOP", [] => some .nop
  | "INIT", [] => some .init
  | "RDREG", [r] => (named Reg.all regText r).map .rdreg
  | "WRREG", [r, v] => readWrreg N r v
  | "WRS", [x] => (readNum N x).map .wrs
  | "RDO", [] => some .rdo
  | "XFM", [d] => named [Instr.xfmFft, .xfmIfft] (fun i => if i = .xfmFft then "FFT" else "IFFT") d
  | "XFM.FFT", [] => some .xfmFft
  | "XFM.IFFT", [] => some .xfmIfft
  | "GETBIN", [a, k] => readIndexed BinArray.all arrayText .getbin a k
  | "SETBIN", [a, k, v] =>
    (readNum N v).bind fun x => readIndexed BinArray.all arrayText (fun a k => .setbin a k x) a k
  | "WTGEN", [k] => (named [()] (fun _ => "SINE") k).map fun _ => .wtgen false 0
  | "WTGEN", [k, f] =>
    (named [()] (fun _ => "SINE") k).bind fun _ => (named [()] (fun _ => "FORCE") f).map fun _ => .wtgen true 0
  | "GETWT", [k] => (readBits 20 k).map .getwt
  | "OSTART", [j, a, f, p] => readOstart N j a f p
  | "OSTOP", [j] => (readBits 20 j).map .ostop
  | "OUPD", [j, a, f, p, n] => readOupd N j a f p n
  | "ONEXT", [j] => (readBits 20 j).map .onext
  | "OACT", [e, j] => readIndexed [true, false] (fun on => if on then "ON" else "OFF") .oact e j
  | "GETOSC", [f, j] => readIndexed OscField.all oscFieldText .getosc f j
  | "PEAKS", [] => some .peaks
  | "GETPK", [f, k] => readIndexed PkField.all pkFieldText .getpk f k
  | "RDS", [] => some .rds
  | _, _ => none

/-- `SETUP`. -/
def readSetup (N : NumType) (kind size hop rate pad wave tab : List Char) : Option Pseudo :=
  match readBits 32 kind, readBits 32 size, readBits 32 hop, readNum N rate, readBits 32 pad, readBits 32 wave,
    readBits 32 tab with
  | some kind, some size, some hop, some rate, some pad, some wave, some tab =>
    some (.setup kind size hop rate pad wave tab)
  | _, _, _, _, _, _, _ => none

/-- The pseudo-command of a mnemonic and its operands (R101). -/
def readPseudo (N : NumType) (mnemonic : String) (operands : List (List Char)) : Option Pseudo :=
  match mnemonic, operands with
  | "WRITE", [x] => (readNum N x).map .write
  | "READ", [] => some .read
  | "FFT", [] => some .fft
  | "IFFT", [] => some .ifft
  | "CFG", [name, v] =>
    (named Reg.all regText ("CFG_".toList ++ name)).bind fun r => (readValue N r v).map (.cfg r)
  | "SETUP", [kind, size, hop, rate, pad, wave, tab] => readSetup N kind size hop rate pad wave tab
  | "OKILL", [j] => (readBits 20 j).map .okill
  | _, _ => none

/-- The commands of one line: a comment or a blank line gives none, a text that is no command is refused. -/
def assemble (N : NumType) (text : String) : Option (List Instr) :=
  let cs := trim (text.toList.takeWhile fun c => c != ';')
  let word := cs.takeWhile fun c => !isBlank c
  let rest := trim (cs.drop word.length)
  let operands := if rest.isEmpty then [] else (pieces ',' rest).map trim
  if cs.isEmpty then some []
  else
    match readCommand N (String.ofList word) operands with
    | some i => some [i]
    | none => (readPseudo N (String.ofList word) operands).map Pseudo.expand

end Sys2Proof.Assembler
end

