-- ==== Sys2Proof/Tests/Slice0.lean ====
section
/-! SUPPORT. Tests on words and values written out from spec/ (95_test_vectors.md), and for every obligation with
hypotheses a concrete instance that meets them (`witness_<obligation>`). -/

namespace Sys2Proof.Tests

open Sys2Proof Sys2Proof.Machine Sys2Proof.Firmware

-- one theorem at a time: the checker's memory limit counts the stack of every thread
set_option Elab.async false

/-! ## Well-formedness: each check refuses an ill-formed command -/

/-- R39: `NORMMODE = 3` is reserved. -/
theorem test_mixctl_normmode_3_ill_formed : (Instr.wrreg .mixCtl 3).wellFormed = false := by decide

/-- R39: bits 31:3 are reserved. -/
theorem test_mixctl_bit_3_ill_formed : (Instr.wrreg .mixCtl 8).wellFormed = false := by decide

/-- R191: `SINE` is the one waveform kind. -/
theorem test_wtgen_kind_1_ill_formed : (Instr.wtgen false 1).wellFormed = false := by decide

/-- R39: 6 is `SQRTCOUNT` with `DENORM`; a value reserved in `MIXCTL` is legal elsewhere. -/
theorem test_mixctl_6_well_formed :
    (Instr.wrreg .mixCtl 6).wellFormed = true ∧ (Instr.wrreg .cfgWinSize 3).wellFormed = true := by decide

/-! ## Decoding: the packets of vector T1, and the illegal ones of T2 -/

theorem test_decode_config_words :
    decode [0x00000000#32] = .ok .nop ∧ decode [0x01000000#32] = .ok .init ∧
    decode [0x02000020#32] = .ok (.rdreg .status) ∧
    decode [0x03000003#32, 0x473B8000#32] = .ok (.wrreg .cfgSrate 0x473B8000#32) := by
  refine ⟨rfl, rfl, rfl, rfl⟩

theorem test_decode_stream_words :
    decode [0x10000000#32, 0x3F000000#32] = .ok (.wrs 0x3F000000#32) ∧ decode [0x11000000#32] = .ok .rdo ∧
    decode [0x20000000#32] = .ok .xfmFft ∧ decode [0x20100000#32] = .ok .xfmIfft := by
  refine ⟨rfl, rfl, rfl, rfl⟩

theorem test_decode_bin_words :
    decode [0x30100014#32] = .ok (.getbin .mag 20) ∧
    decode [0x31100005#32, 0x40400000#32] = .ok (.setbin .mag 5 0x40400000#32) := by
  refine ⟨rfl, rfl⟩

theorem test_decode_table_words :
    decode [0x40000000#32] = .ok (.wtgen false 0) ∧ decode [0x40100000#32] = .ok (.wtgen true 0) ∧
    decode [0x41000400#32] = .ok (.getwt 1024) := by
  refine ⟨rfl, rfl, rfl⟩

theorem test_decode_oscillator_words :
    decode [0x50000003#32, 0x3F000000#32, 0x43DC0000#32, 0x3E800000#32]
      = .ok (.ostart 3 0x3F000000#32 0x43DC0000#32 0x3E800000#32) ∧
    decode [0x51000003#32] = .ok (.ostop 3) ∧
    decode [0x52000003#32, 0x3F000000#32, 0x43DC0000#32, 0x00000000#32, 0x00000100#32]
      = .ok (.oupd 3 0x3F000000#32 0x43DC0000#32 0 256) ∧
    decode [0x53000003#32] = .ok (.onext 3) ∧ decode [0x54100002#32] = .ok (.oact true 2) ∧
    decode [0x54000002#32] = .ok (.oact false 2) ∧ decode [0x55600000#32] = .ok (.getosc .steps 0) := by
  refine ⟨rfl, rfl, rfl, rfl, rfl, rfl, rfl⟩

theorem test_decode_peak_and_mixer_words :
    decode [0x60000000#32] = .ok .peaks ∧ decode [0x61400001#32] = .ok (.getpk .frq 1) ∧
    decode [0x70000000#32] = .ok .rds := by
  refine ⟨rfl, rfl, rfl⟩

/-- T2, length and opcode: an empty packet, two unassigned opcodes, wrong lengths. -/
theorem test_illegal_lengths_and_opcodes :
    decode [] = .error .emptyPacket ∧ decode [0x04000000#32] = .error .unassignedOpcode ∧
    decode [0xFF000000#32] = .error .unassignedOpcode ∧ decode [0x10000000#32] = .error .wrongLength ∧
    decode [0x10000000#32, 0x3F000000#32, 0] = .error .wrongLength ∧
    decode [0x11000000#32, 0] = .error .wrongLength ∧
    decode [0x50000000#32, 0x3F800000#32] = .error .wrongLength := by
  refine ⟨rfl, rfl, rfl, rfl, rfl, rfl, rfl⟩

/-- T2, fields: a field that must be zero, a reserved selector, register, value or kind. -/
theorem test_illegal_fields :
    decode [0x00000001#32] = .error .nonZeroField ∧ decode [0x01100000#32] = .error .nonZeroField ∧
    decode [0x20200000#32] = .error .reservedSelector ∧ decode [0x20000001#32] = .error .nonZeroField ∧
    decode [0x30700000#32] = .error .reservedSelector ∧ decode [0x31F00000#32, 0] = .error .reservedSelector ∧
    decode [0x0200000C#32] = .error .reservedRegister ∧ decode [0x0200003E#32] = .error .reservedRegister ∧
    decode [0x03000012#32, 0] = .error .reservedRegister ∧ decode [0x03000010#32, 3] = .error .reservedMixCtl ∧
    decode [0x03000010#32, 8] = .error .reservedMixCtl ∧ decode [0x02100020#32] = .error .nonZeroField ∧
    decode [0x40000001#32] = .error .undefinedKind ∧ decode [0x40200000#32] = .error .nonZeroField ∧
    decode [0x40000100#32] = .error .nonZeroField ∧ decode [0x54200000#32] = .error .nonZeroField ∧
    decode [0x55A00000#32] = .error .reservedSelector ∧ decode [0x61600000#32] = .error .reservedSelector ∧
    decode [0x70000001#32] = .error .nonZeroField := by
  refine ⟨rfl, rfl, rfl, rfl, rfl, rfl, rfl, rfl, rfl, rfl, rfl, rfl, rfl, rfl, rfl, rfl, rfl, rfl, rfl⟩

/-- The index is judged at execution, not at decode (T2, last paragraph). -/
theorem test_decode_keeps_every_index_bit : decode [0x300FFFFF#32] = .ok (.getbin .amp 0xFFFFF) := rfl

/-- A table word shorter than the packet is followed by operand words of zeros. -/
theorem test_decode_table_word :
    decodeTableWord 32 0x54100002 = some (.oact true 2) ∧ decodeTableWord 32 0x52000003 = some (.oupd 3 0 0 0 0) ∧
    decodeTableWord 64 0x4040000031100005 = some (.setbin .mag 5 0x40400000#32) ∧
    decodeTableWord 32 0xFF000000 = none := by
  refine ⟨rfl, rfl, rfl, rfl⟩

/-- R72: header first, each word least significant byte first. -/
theorem test_byte_transport :
    packetBytes [0x10000000#32, 0x3F000000#32] = [0x00, 0x00, 0x00, 0x10, 0x00, 0x00, 0x00, 0x3F] ∧
    decodeBytes [0x00, 0x00, 0x00, 0x10, 0x00, 0x00, 0x00, 0x3F] = .ok (.wrs 0x3F000000#32) ∧
    decodeBytes [0x00, 0x00, 0x00] = .error .wrongLength := by
  refine ⟨rfl, rfl, rfl⟩

/-! ## Arithmetic: words of 95_test_vectors.md -/

/-- T3, T20: 44100/2048 and (20 * 44100)/2048 are exact. -/
theorem test_bin_frequencies :
    F32.div 0x472C4400#32 (F32.ofNat 2048) = 0x41AC4400#32 ∧
    F32.div (F32.mul (F32.ofNat 20) 0x472C4400#32) (F32.ofNat 2048) = 0x43D75500#32 := by decide +kernel

/-- T30: offset, height and frequency of the parabola through 1, 3, 2 at bin 5. -/
theorem test_parabola_rounding :
    vertexOffset F32.type 0x3F800000#32 0x40400000#32 0x40000000#32 = 0x3E2AAAAB#32 ∧
    vertexHeight F32.type 0x3F800000#32 0x40400000#32 0x40000000#32 0x3E2AAAAB#32 = 0x4042AAAB#32 ∧
    refinedFrequency F32.type 0x3F800000#32 5 0x3E2AAAAB#32 = 0x40A55555#32 := by decide +kernel

/-- T36: a symmetric peak has the offset `-0`. -/
theorem test_parabola_negative_zero :
    vertexOffset F32.type 0x3F800000#32 0x40000000#32 0x3F800000#32 = 0x80000000#32 := by decide +kernel

/-- T34, T35: the phase pair follows the sign of the offset, without unwrapping (T35 within one unit of its ideal). -/
theorem test_phase_interpolation :
    phaseInterp F32.type [0x3E4CCCCD#32, 0x3ECCCCCD#32, 0x3F666666#32] 1 0xBE2AAAAB#32 = 0x3EBBBBBC#32 ∧
    (let v := (phaseInterp F32.type [0, 0x3F733333#32, 0x3D4CCCCD#32] 1 0x3E2AAAAB#32).toNat
     0x3F4CCCCD ≤ v + 1 ∧ v ≤ 0x3F4CCCCD) := by decide +kernel

/-- T45: the sums 1 and 2 over `sqrt(2)`. -/
theorem test_sqrt_normalisation :
    normalise F32.type .sqrtCount 2 0x3F800000#32 = 0x3F3504F3#32 ∧ normalise F32.type .sqrtCount 2 0x40000000#32 = 0x3FB504F3#32 := by
  decide +kernel

/-- R12: overflow and division by zero give infinities, a NaN compares false, subnormals are kept. -/
theorem test_special_values :
    F32.add 0x7F7FFFFF#32 0x7F7FFFFF#32 = 0x7F800000#32 ∧ F32.div F32.one F32.zero = 0x7F800000#32 ∧
    F32.le 0x7FC00000#32 F32.one = false ∧ F32.eq 0x7FC00000#32 0x7FC00000#32 = false ∧
    F32.div 0x00800000#32 F32.two = 0x00400000#32 ∧ F32.eq 0x80000000#32 0x00000000#32 = true ∧
    F32.floor 0xBE800000#32 = -1 := by decide +kernel

/-- R100: the decimal literals 440.0, 0.4 and 1e-7. -/
theorem test_decimal_literals :
    F32.ofDecimal false 4400 1 = 0x43DC0000#32 ∧ F32.ofDecimal false 4 1 = 0x3ECCCCCD#32 ∧
    F32.ofDecimal false 1 7 = 0x33D6BF95#32 := by decide +kernel

/-! ## States: configuration CFG-B of 95_test_vectors.md, its window and table written out -/

/-- A slot playing at a quarter turn (T28): amplitude 1, 1 Hz, `ph = 1`. -/
def tone : Osc :=
  { ph := 0x3F800000#32, amp := 0x3F800000#32, freq := 0x3F800000#32, tAmp := 0x3F800000#32,
    tFreq := 0x3F800000#32, tPhase := 0x3E800000#32, ampStep := 0, freqStep := 0, stepsLeft := 0, active := true }

/-- CFG-B configured: `N` = 8, `H` = 2, `fs` = 8, unpadded, `T` = 4, `M` = 2; slot 0 plays, slot 1 is silent. -/
def base : State :=
  { State.reset with
    mode := .waveform, wtValid := true
    act :=
      { windowKind := 0, windowSize := 8, hopFactor := 4, sampleRate := 0x41000000#32, padFlag := false,
        waveKind := 0, tableSize := 4, maxTracks := 2, gsigma := 0x3ECCCCCD#32, thrK := 0x3F800000#32, pkThr := 0,
        eps := 0x33D6BF95#32 }
    appetite := 8
    inRing := Ring.fresh F32.type 8, outRing := Ring.fresh F32.type 8
    win := [0, 0x3E15F61A#32, 0x3F000000#32, 0x3F5A827A#32, 0x3F800000#32, 0x3F5A827A#32, 0x3F000000#32, 0x3E15F61A#32]
    specRe := List.replicate 5 0, specIm := List.replicate 5 0
    amp := List.replicate 5 0, phs := List.replicate 5 0
    mag := [0, 0x3F800000#32, 0x40400000#32, 0x40000000#32, 0]
    frq := [0, 0x3F800000#32, 0x40000000#32, 0x40400000#32, 0x40800000#32]
    mthr := List.replicate 5 0, pthr := List.replicate 5 0
    wt := [0, 0x3F800000#32, 0, 0xBF800000#32, 0]
    osc := [tone, Osc.zero F32.type] }

/-- One sample short of a ready frame. -/
def almost : State := { base with count := 7 }
/-- A ready frame. -/
def full : State := { base with count := 8, frdy := true }
/-- After a forward transform. -/
def spectral : State := { base with mode := .spectrum, appetite := 2 }
/-- After a forward transform, with the spectrum modified. -/
def dirty : State := { spectral with specDirty := true }
/-- Halted by an earlier error. -/
def halted : State := { base with halt := true, errCnt := 1, errFirst := 4, errLast := 4 }
/-- With one peak recorded, of T30's shape at bin 2. -/
def peaked : State :=
  { base with
    pk := [{ bin := 2, off := 0x3E2AAAAB#32, mag := 0x4042AAAB#32, amp := 0x3FB5AC9A#32, frq := 0x400AAAAB#32, phs := 0 }] }
/-- Slot 0 with a glide of two more calls, and one of one more call. -/
def gliding (n : Word) : State :=
  { base with osc := [{ tone with stepsLeft := n, ampStep := 0xBE800000#32, freqStep := 0x3F000000#32 }, Osc.zero F32.type] }
/-- No slot active. -/
def silent : State := { base with osc := [{ tone with active := false }, Osc.zero F32.type] }

/-- The state a command leaves, when it answers one. -/
def after (i : Instr) (s : State) : State := issue i s

theorem exec_after (i : Instr) (s : State) : exec i s = .next (after i s) := by
  obtain ⟨t, h⟩ := exec_next i s
  simp [after, issue, h]

theorem base_inv : Machine.Inv base := by
  refine ⟨Params.default_legal, nofun, fun _ => ?_⟩
  constructor <;> first | decide +kernel | (constructor <;> decide +kernel)

theorem almost_inv : Machine.Inv almost := by
  refine ⟨Params.default_legal, nofun, fun _ => ?_⟩
  constructor <;> first | decide +kernel | (constructor <;> decide +kernel)

theorem full_inv : Machine.Inv full := by
  refine ⟨Params.default_legal, nofun, fun _ => ?_⟩
  constructor <;> first | decide +kernel | (constructor <;> decide +kernel)

theorem spectral_inv : Machine.Inv spectral := by
  refine ⟨Params.default_legal, nofun, fun _ => ?_⟩
  constructor <;> first | decide +kernel | (constructor <;> decide +kernel)

theorem dirty_inv : Machine.Inv dirty := by
  refine ⟨Params.default_legal, nofun, fun _ => ?_⟩
  constructor <;> first | decide +kernel | (constructor <;> decide +kernel)

theorem peaked_inv : Machine.Inv peaked := by
  refine ⟨Params.default_legal, nofun, fun _ => ?_⟩
  constructor <;> first | decide +kernel | (constructor <;> decide +kernel)

theorem silent_inv : Machine.Inv silent := by
  refine ⟨Params.default_legal, nofun, fun _ => ?_⟩
  constructor <;> first | decide +kernel | (constructor <;> decide +kernel)

theorem gliding_2_inv : Machine.Inv (gliding 2) := by
  refine ⟨Params.default_legal, nofun, fun _ => ?_⟩
  constructor <;> first | decide +kernel | (constructor <;> decide +kernel)

theorem gliding_1_inv : Machine.Inv (gliding 1) := by
  refine ⟨Params.default_legal, nofun, fun _ => ?_⟩
  constructor <;> first | decide +kernel | (constructor <;> decide +kernel)

/-! ## One-step tests -/

/-- T27 with `ph = 1`: output 1, then `ph` 1.5; R206. -/
theorem test_onext_sample :
    (after (.onext 0) base).response = some { status := 0, result := 0x3F800000#32 } ∧
    ((after (.onext 0) base).slot 0).ph = 0x3FC00000#32 := by decide +kernel

/-- T29: the last glide call lands on the targets, the one before adds the steps. -/
theorem test_onext_glide :
    ((after (.onext 0) (gliding 2)).slot 0).amp = 0x3F400000#32 ∧
    ((after (.onext 0) (gliding 1)).slot 0).freq = 0x3F800000#32 := by decide +kernel

/-- T28: phase -0.25 is position 3 of 4. -/
theorem test_ostart_negative_phase :
    ((after (.ostart 0 0x3F800000#32 0x3F800000#32 0xBE800000#32) base).slot 0).ph = 0x40400000#32 := by
  decide +kernel

/-- T51: amplitude before frequency before phase, index before values. -/
theorem test_operand_error_order :
    responseCode (after (.ostart 2 0x7FC00000#32 0xBF800000#32 0) base) = some 5 ∧
    responseCode (after (.ostart 0 0x7FC00000#32 0xBF800000#32 0) base) = some 9 ∧
    responseCode (after (.ostart 0 0x3F800000#32 0x40A00000#32 0x7FC00000#32) base) = some 6 ∧
    responseCode (after (.oupd 0 0x3F800000#32 0x3F800000#32 0 0xFFFFFFFF#32) base) = some 0 := by decide +kernel

/-- T29: the steps of a glide from amplitude 1 to 0.5 and from 1 Hz to 2 Hz in two calls. -/
theorem test_oupd_steps :
    let o := (after (.oupd 0 0x3F000000#32 0x40000000#32 0 2) base).slot 0
    o.ampStep = 0xBE800000#32 ∧ o.freqStep = 0x3F000000#32 ∧ o.stepsLeft = 2 ∧ o.amp = 0x3F800000#32 := by
  decide +kernel

/-- T52: `OSTOP` silences, and keeps frequency and phase. -/
theorem test_ostop_keeps_phase :
    let o := (after (.ostop 0) base).slot 0
    o.amp = 0 ∧ o.active = false ∧ o.freq = 0x3F800000#32 ∧ o.ph = 0x3F800000#32 := by decide +kernel

/-- T11: the `WRS` that completes the frame answers 1; a ninth sample overwrites position 0 and answers 0. -/
theorem test_wrs_ready :
    (after (.wrs 0x3F800000#32) almost).response = some { status := 0, result := 1 } ∧
    (after (.wrs 0x41100000#32) full).response = some { status := 0, result := 0 } ∧
    readAt (after (.wrs 0x41100000#32) full).inRing.buf 0 = 0x41100000#32 := by decide +kernel

/-- T13: `RDO` of a fresh ring answers `+0` and advances the cursor. -/
theorem test_rdo_fresh :
    (after .rdo base).response = some { status := 0, result := 0 } ∧ (after .rdo base).outRing.r = 1 := by
  decide +kernel

/-- T17: `XFM.IFFT` in `WAVEFORM` mode halts. -/
theorem test_ifft_wrong_mode : (after .xfmIfft base).halt = true ∧ responseCode (after .xfmIfft base) = some 4 := by
  decide +kernel

/-- T11: after a forward transform the read cursor is one hop on and the appetite is the hop. -/
theorem test_fft_cadence :
    (after .xfmFft full).inRing.r = 2 ∧ (after .xfmFft full).appetite = 2 ∧ (after .xfmFft full).mode = .spectrum := by
  decide +kernel

/-- T22, T20: the window port is `N` long, the bin arrays `B` long. -/
theorem test_getbin_lengths :
    (after (.getbin .win 4) base).response = some { status := 0, result := 0x3F800000#32 } ∧
    responseCode (after (.getbin .win 8) base) = some 5 ∧ responseCode (after (.getbin .amp 5) base) = some 5 ∧
    responseCode (after (.getbin .amp 4) base) = some 0 := by decide +kernel

/-- T23: read-only before index. -/
theorem test_setbin_order :
    responseCode (after (.setbin .frq 0xFFFFF 0x3F800000#32) base) = some 8 ∧
    responseCode (after (.setbin .mag 0xFFFFF 0x3F800000#32) base) = some 5 := by decide +kernel

/-- T18: `AMP` dirties the spectrum, `MTHR` does not. -/
theorem test_setbin_dirties :
    readReg (after (.setbin .amp 2 0) spectral) .status = 0x32#32 ∧
    readReg (after (.setbin .mthr 2 0) spectral) .status = 0x22#32 := by decide +kernel

/-- T26: an unforced `WTGEN` of the kind held does nothing. -/
theorem test_wtgen_idempotent :
    (after (.wtgen false 0) base).response = some { status := 0, result := 0 } ∧
    (after (.wtgen true 0) base).response = some { status := 0, result := 1 } := by decide +kernel

/-- T25: index `T` is legal, `T + 1` is not. -/
theorem test_getwt_guard_point :
    responseCode (after (.getwt 4) base) = some 0 ∧ responseCode (after (.getwt 5) base) = some 5 := by decide +kernel

/-- T30: reading a recorded peak. -/
theorem test_getpk_fields :
    (after (.getpk .off 0) peaked).response = some { status := 0, result := 0x3E2AAAAB#32 } ∧
    responseCode (after (.getpk .bin 1) peaked) = some 5 := by decide +kernel

/-- T31: a plateau is no peak. -/
theorem test_peaks_plateau :
    (after .peaks { base with mag := [0, 0x40400000#32, 0x40400000#32, 0x40000000#32, 0] }).response
      = some { status := 0, result := 0 } := by decide +kernel

/-- T48: with no active slot a NaN gain is not applied; T46's arithmetic with one active slot and gain 2. -/
theorem test_rds_gain :
    (after .rds { silent with mixGain := 0x7FC00000#32 }).response = some { status := 0, result := 0 } ∧
    (after .rds { base with mixGain := 0x40000000#32 }).response = some { status := 0, result := 0x40000000#32 } := by
  decide +kernel

/-- T52: `OACT` is the one writer of the active bit besides `OSTOP`. -/
theorem test_oact_nactive : readReg (after (.oact true 1) base) .nActive = 2 := by decide +kernel

/-- T28: `GETOSC` reads the phase operand as given. -/
theorem test_getosc_fields :
    (after (.getosc .tPhase 0) base).response = some { status := 0, result := 0x3E800000#32 } ∧
    responseCode (after (.getosc .ph 2) base) = some 5 := by decide +kernel

/-- T3: the default configuration. -/
theorem test_init_geometry :
    readReg (after .init State.reset) .status = 0x21#32 ∧ readReg (after .init State.reset) .numBins = 1025 ∧
    readReg (after .init State.reset) .pkCap = 256 := by decide +kernel

/-- T4: an illegal window size leaves the block `UNCONF` with `ERRLAST` 3. -/
theorem test_init_illegal :
    let t := after .init (after (.wrreg .cfgWinSize 1000) State.reset)
    readReg t .status = 0 ∧ readReg t .errLast = 3 ∧ t.halt = false := by decide +kernel

/-- T5: a staged register is not the active one. -/
theorem test_wrreg_staging :
    readReg (after (.wrreg .cfgWinSize 16) base) .cfgWinSize = 16 ∧
    readReg (after (.wrreg .cfgWinSize 16) base) .winSize = 8 := by decide +kernel

/-- T6: a status register is read-only, and `E_HALTED` comes first. -/
theorem test_wrreg_status :
    responseCode (after (.wrreg .status 0) base) = some 8 ∧ responseCode (after (.wrreg .status 0) halted) = some 7 := by
  decide +kernel

/-- T3: the reset values read back. -/
theorem test_rdreg_reset :
    readReg State.reset .id = 0x534D3037#32 ∧ readReg State.reset .mixCtl = 5 ∧ readReg State.reset .status = 0 := by
  decide +kernel

/-- T53, T54: a step on a packet from reset: `E_NOTINIT` logged, then `E_ILLEGAL`. -/
theorem test_error_log :
    let s := { State.reset with port := [.packet [0x10000000#32, 0x3F000000#32], .packet [0xFF000000#32]] }
    let run := fun s => match step s with
      | .next t => t
      | _ => s
    readReg (run (run s)) .errFirst = 2 ∧ readReg (run (run s)) .errLast = 1 ∧ readReg (run (run s)) .errCnt = 2 := by
  decide +kernel

/-- R100: the text of two commands. -/
theorem test_assembler_text :
    Assembler.text (.oact true 2) = "OACT ON, 2" ∧ Assembler.text (.wrreg .cfgWinSize 8) = "WRREG CFG_WINSIZE, 8" := by
  decide +kernel

/-- R100, T1: three lines assemble to their words. -/
theorem test_assemble_lines :
    (Assembler.assemble F32.type "OUPD 3, 0.5, 440.0, 0.0, 256 ; glide").map (List.map encode)
      = some [[0x52000003#32, 0x3F000000#32, 0x43DC0000#32, 0x00000000#32, 0x00000100#32]] ∧
    (Assembler.assemble F32.type "WRREG CFG_SRATE, 48000.0").map (List.map encode) = some [[0x03000003#32, 0x473B8000#32]] ∧
    (Assembler.assemble F32.type "SETBIN PHS, 3, #0x7FC00001").map (List.map encode)
      = some [[0x31200003#32, 0x7FC00001#32]] := by decide +kernel

/-- R101: pseudo-commands expand; a text that is no command is refused. -/
theorem test_assemble_pseudo :
    Assembler.assemble F32.type "CFG WINSIZE, 8" = some [.wrreg .cfgWinSize 8] ∧ Assembler.assemble F32.type "READ" = some [.rds] ∧
    Assembler.assemble F32.type "GETBIN FOO, 1" = none := by decide +kernel

/-- T42: the events of the lifecycle trace, status and counters after hops 2, 4, 5, 7 and 8. -/
theorem test_track_lifecycle :
    let m : TrackMatch :=
      { binIndex := 20, isDetected := true, isAssigned := false, amplitude := 0x3F000000#32,
        frequency := 0x43DC0000#32, phase := 0, distanceSquared := 0 }
    let run := fun es : List Bool => es.foldl (fun t e => Track.update 2 2 e t) (Track.begin m)
    let view := fun es : List Bool =>
      ((run es).status, (run es).birthFrames, (run es).aliveFrames, (run es).dyingFrames)
    view [true, true] = (.alive, 2, 0, 0) ∧ view [true, true, true, false] = (.dying, 2, 1, 0) ∧
    view [true, true, true, false, true] = (.alive, 2, 1, 0) ∧
    view [true, true, true, false, true, false, false] = (.dying, 2, 1, 1) ∧
    view [true, true, true, false, true, false, false, false] = (.dead, 2, 1, 2) := by decide +kernel

/-- T43: with one slot the second of two peaks evicts the first. -/
theorem test_degenerate_pool :
    let peak := fun f : NUM =>
      ({ binIndex := 0, isDetected := true, isAssigned := false, amplitude := 0x3F000000#32, frequency := f, phase := 0,
         distanceSquared := 0 } : TrackMatch)
    let r := breakpoint F32.type (fun _ => 0x41200000#32) (fun _ => 0) 256 (HostState.initial F32.type 1 2 2) [peak 0x43DC0000#32, peak 0x447A0000#32]
    r.1.pool.map Track.frequency = [0x447A0000#32] ∧ r.1.pool.map Track.status = [.birth] := by decide +kernel

/-! ## Witnesses: for every obligation with hypotheses, an instance that meets them, each clause at a boundary -/

theorem base_ready : Ready base := ⟨rfl, nofun⟩
theorem almost_ready : Ready almost := ⟨rfl, nofun⟩
theorem full_ready : Ready full := ⟨rfl, nofun⟩
theorem spectral_ready : Ready spectral := ⟨rfl, nofun⟩
theorem peaked_ready : Ready peaked := ⟨rfl, nofun⟩

/-- `ReadyGuard`: a halted block, and one that is `UNCONF` and not halted. -/
theorem witness_ReadyGuard : halted.halt = true ∧ State.reset.halt = false ∧ State.reset.mode = .unconf := by
  decide +kernel

theorem witness_DecodeEncodeRoundTrip :
    (Instr.wrreg .mixCtl 6).wellFormed = true ∧ (Instr.wtgen true 0).wellFormed = true ∧
    (Instr.getosc .freqStep 0xFFFFF).wellFormed = true := by decide +kernel

theorem witness_EncodeDecodeRoundTrip :
    decode [0x03000010#32, 6] = .ok (.wrreg .mixCtl 6) ∧ decode [0x559FFFFF#32] = .ok (.getosc .freqStep 0xFFFFF) :=
  ⟨rfl, rfl⟩

/-- Boundaries: the last legal and the first illegal register number, the last legal `MIXCTL` value. -/
theorem witness_IllegalEncodingsAreReported :
    (∃ s : State, s.port = .packet [0x0200003D#32] :: []) ∧ legalPacket [0x0200003D#32] = true ∧
    legalPacket [0x0200003E#32] = false ∧ legalPacket [0x03000010#32, 6] = true ∧
    legalPacket [0x03000010#32, 7] = false ∧ legalPacket [] = false :=
  ⟨⟨{ base with port := [.packet [0x0200003D#32]] }, rfl⟩, by decide +kernel⟩

theorem witness_StepRunsDecodedCommand :
    (∃ s : State, s.port = .packet [0x30100004#32] :: [.reset]) ∧ decode [0x30100004#32] = .ok (.getbin .mag 4) ∧
    decodeTableWord 32 0x70000000 = some .rds :=
  ⟨⟨{ base with port := [.packet [0x30100004#32], .reset] }, rfl⟩, rfl, rfl⟩

theorem witness_StepIdlesAndResets :
    base.port = [] ∧ ∃ s : State, s.port = .reset :: [.packet [0]] :=
  ⟨rfl, { halted with port := [.reset, .packet [0]] }, rfl⟩

/-- A state with one packet on its port, and the state a step leaves. -/
def given (ws : List Word) (s : State) : State := { s with port := [.packet ws] }

/-- The state a step leaves, when it answers one. -/
def stepped (s : State) : State :=
  match step s with
  | .next t => t
  | _ => s

theorem step_stepped (s : State) : step s = .next (stepped s) := by
  obtain ⟨t, h⟩ := step_next s
  simp [stepped, h]

/-- An answer `OK`; a halting error with the first and with the saturated count; an illegal packet; a failing `INIT`. -/
theorem witness_ErrorEffect :
    (∃ s : State, s.port = .packet [0x70000000#32] :: [] ∧ step s = .next (stepped s) ∧
      responseCode (stepped s) = some 0) ∧
    (∃ s : State, s.port = .packet [0x20100000#32] :: [] ∧ step s = .next (stepped s) ∧ s.errCnt = 0 ∧
      responseCode (stepped s) = some 4) ∧
    (∃ s : State, s.port = .packet [0x20100000#32] :: [] ∧ step s = .next (stepped s) ∧ s.errCnt = 0xFFFFFFFF#32 ∧
      responseCode (stepped s) = some 4) ∧
    decode [0x20100000#32] ≠ .ok .init ∧
    (∃ s : State, s.port = .packet [0x01000000#32] :: [] ∧ step s = .next (stepped s) ∧
      responseCode (stepped s) = some 3) ∧ decode [0x01000000#32] = .ok .init :=
  ⟨⟨given [0x70000000#32] base, rfl, step_stepped _, by decide +kernel⟩,
   ⟨given [0x20100000#32] base, rfl, step_stepped _, rfl, by decide +kernel⟩,
   ⟨given [0x20100000#32] { base with errCnt := 0xFFFFFFFF#32 }, rfl, step_stepped _, rfl, by decide +kernel⟩,
   nofun,
   ⟨given [0x01000000#32] { base with staged := { State.reset.staged with eps := 0 } }, rfl, step_stepped _,
    by decide +kernel⟩, rfl⟩

/-- A packet that is no command, given to a halted block. -/
theorem witness_ErrorPriority :
    (given [0x10000000#32] halted).port = .packet [0x10000000#32] :: [] ∧
    decode [0x10000000#32] = .error .wrongLength := ⟨rfl, rfl⟩

theorem witness_AllowedCodes :
    exec (.setbin .win 9 0) base = .next (after (.setbin .win 9 0) base) ∧
    responseCode (after (.setbin .win 9 0) base) = some 8 ∧
    (given [] base).port = .packet [] :: [] ∧ decode [] = .error .emptyPacket ∧
    step (given [] base) = .next (stepped (given [] base)) :=
  ⟨exec_after _ _, by decide +kernel, rfl, rfl, step_stepped _⟩

/-- V2 one below its bound, V8 one above it. -/
theorem witness_InitFailure :
    configLegal {} { State.reset.staged with winSize := 2, hopFactor := 1 } = false ∧
    configLegal {} { State.reset.staged with maxTrk := 257 } = false ∧
    configLegal { noscMax := 257 } { State.reset.staged with maxTrk := 257 } = true := by decide +kernel

theorem witness_ModeTransitions :
    exec .xfmFft base = .next (after .xfmFft base) ∧ base.halt = false ∧ base.mode = .waveform ∧
    spectral.halt = false ∧ spectral.mode = .spectrum ∧ ∃ s : State, s.port = .reset :: [] :=
  ⟨exec_after _ _, by decide +kernel, by decide +kernel, by decide +kernel, by decide +kernel,
    { spectral with port := [.reset] }, rfl⟩

/-- A halting error from `HALT = 0`, a refused command with `HALT = 1`, legal and illegal, and `INIT` leaving it. -/
theorem witness_HaltLatch :
    exec .xfmIfft base = .next (after .xfmIfft base) ∧ responseCode (after .xfmIfft base) = some 4 ∧
    base.halt = false ∧ (after .xfmIfft base).halt = true ∧
    halted.halt = true ∧ runsHalted .rds = false ∧ (Instr.wtgen false 1).wellFormed = false ∧
    (after .init halted).halt = false ∧ ∃ s : State, s.port = .reset :: [] :=
  ⟨exec_after _ _, by decide +kernel, by decide +kernel, by decide +kernel, by decide +kernel, by decide +kernel,
    by decide +kernel, by decide +kernel, { halted with port := [.reset] }, rfl⟩

theorem witness_InvariantStep : Machine.Inv base ∧ Machine.Inv dirty ∧ Machine.Inv (gliding 2) :=
  ⟨base_inv, dirty_inv, gliding_2_inv⟩

/-- Each flag set and each flag cleared once. -/
theorem witness_FlagWriters :
    (almost.frdy = false ∧ (after (.wrs 0) almost).frdy = true) ∧
    (full.frdy = true ∧ (after .xfmFft full).frdy = false) ∧
    (spectral.specDirty = false ∧ (after (.setbin .phs 4 0) spectral).specDirty = true ∧
      responseCode (after (.setbin .phs 4 0) spectral) = some 0 ∧ spectral.mode = .spectrum) ∧
    (dirty.specDirty = true ∧ (after .init dirty).specDirty = false) ∧
    (State.reset.wtValid = false ∧ (after .init State.reset).wtValid = true) ∧
    (base.wtValid = true ∧ (after .init { base with staged := { State.reset.staged with eps := 0 } }).wtValid = false) ∧
    (base.halt = false ∧ (after .xfmIfft base).halt = true) ∧
    (halted.halt = true ∧ (after .init halted).halt = false) := by decide +kernel

theorem witness_NoAllocationOutsideInit :
    Machine.Inv full ∧ Instr.xfmFft ≠ .init ∧ exec .xfmFft full = .next (after .xfmFft full) :=
  ⟨full_inv, by decide, exec_after _ _⟩

/-- One of each reading command, at the last index of its array. -/
theorem witness_ReadSideEffects :
    responseCode (after (.getbin .win 7) base) = some 0 ∧ responseCode (after (.getwt 4) base) = some 0 ∧
    responseCode (after (.getosc .freqStep 1) base) = some 0 ∧ responseCode (after (.getpk .phs 0) peaked) = some 0 ∧
    responseCode (after (.rdreg .eps) base) = some 0 ∧ responseCode (after .rdo base) = some 0 ∧
    responseCode (after (.onext 1) base) = some 0 ∧ responseCode (after .rds base) = some 0 ∧
    (base.slot 1).active = false ∧ responseCode (after (.wrs 0) almost) = some 0 ∧
    responseCode (after (.getwt 5) base) ≠ some 0 := by decide +kernel

theorem witness_StagedRegistersAreIsolated :
    Instr.rds ≠ .init ∧ (∀ r, Instr.rds = .rdreg r → 0x0B < r.num.toNat) ∧
    (∀ r, Instr.rdreg .mixCtl = .rdreg r → 0x0B < r.num.toNat) ∧ exec .rds base = .next (after .rds base) :=
  ⟨by decide, nofun, fun _ h => by cases h; decide, exec_after _ _⟩

/-- The smallest window with a hop of one sample, and the largest of everything. -/
theorem witness_InitEstablishes :
    configLegal {} { State.reset.staged with winSize := 4, hopFactor := 4, tabSize := 2, maxTrk := 1 } = true ∧
    configLegal {} { State.reset.staged with winSize := 65536, hopFactor := 1, tabSize := 65536, maxTrk := 256, winKind := 1 }
      = true := by decide +kernel

/-- An implementation with other bounds, another `ID` and functions of its own. -/
def otherParams : Params :=
  { wsMax := 16, tsMax := 2, noscMax := 2 ^ 20, window := .other, waveGen := .other, idValue := 0x00000007#32 }

theorem otherParams_legal : otherParams.Legal where
  num := F32.lawful
  wsPow2 := by decide
  wsMin := by decide
  wsIndex := by decide
  tsMin := by decide
  tsIndex := by decide
  noscMin := by decide
  noscIndex := by decide

theorem witness_InvariantAtReset : Params.Legal {} ∧ otherParams.Legal := ⟨Params.default_legal, otherParams_legal⟩

/-- R7: the bounds and the `ID` are those of the implementation, and reset leaves them. -/
theorem test_parameters :
    let s := { State.resetWith otherParams with port := [.reset] }
    let t := match step s with
      | .next t => t
      | _ => s
    readReg t .id = 7 ∧ configLegal t.params { t.staged with winSize := 16, tabSize := 2 } = true ∧
    configLegal t.params { t.staged with winSize := 32, tabSize := 2 } = false ∧
    configLegal t.params { t.staged with winSize := 16, tabSize := 3 } = false := by decide +kernel

theorem witness_RdregReadsRegister :
    State.reset.mode = .unconf ∧ 0x24 ≤ Reg.winSize.num.toNat ∧ base.mode ≠ .unconf := by decide +kernel

theorem witness_StatusBits : base.halt = false := rfl

/-- `MIXCTL` at its boundary values, a read-only register, a halted block, a live register, another register. -/
theorem witness_WrregWritesRegister :
    ((7#32).toNat % 4 = 3 ∧ 8 ≤ (8#32).toNat) ∧ ¬ ((6#32).toNat % 4 = 3 ∨ 8 ≤ (6#32).toNat) ∧
    halted.halt = true ∧ base.halt = false ∧ 0x20 ≤ Reg.status.num.toNat ∧ Reg.mixGain.num.toNat < 0x20 ∧
    Reg.mixCtl ≠ .mixGain := by decide +kernel

theorem witness_WrsPushesSample :
    Ready almost ∧ Machine.Inv almost ∧ (after (.wrs 0) almost).count = almost.appetite ∧
    Ready full ∧ Machine.Inv full ∧ (after (.wrs 0) full).count ≠ full.appetite ∧ 7 ≠ full.inRing.w :=
  ⟨almost_ready, almost_inv, by decide +kernel, full_ready, full_inv, by decide +kernel, by decide +kernel⟩

theorem witness_RdoPopsSample : Ready base ∧ Machine.Inv base := ⟨base_ready, base_inv⟩

/-- As many samples as the ring holds, from its last cursor position. -/
theorem witness_RingIsFifo :
    let g : Ring := { buf := [0, 0], w := 1, r := 1 }
    isPow2 g.buf.length = true ∧ g.w = g.r ∧ g.r < g.buf.length ∧ [F32.one, F32.two].length ≤ g.buf.length := by
  decide +kernel

theorem witness_CadenceOfBalancedOperation :
    configLegal State.reset.params State.reset.staged = true ∧ exec .init State.reset = .next (after .init State.reset) :=
  ⟨by decide +kernel, exec_after _ _⟩

theorem witness_XfmFftTransformsFrame :
    spectral.halt = false ∧ spectral.mode = .spectrum ∧ full.halt = false ∧ full.mode = .waveform ∧ Machine.Inv full :=
  ⟨rfl, rfl, rfl, rfl, full_inv⟩

theorem witness_NormalisationFactors :
    full.num.Lawful ∧ full.halt = false ∧ full.mode = .waveform ∧ exec .xfmFft full = .next (after .xfmFft full) :=
  ⟨F32.lawful, rfl, rfl, exec_after _ _⟩

theorem witness_XfmIfftStreamsSamples :
    full.halt = false ∧ full.mode = .waveform ∧ spectral.halt = false ∧ spectral.mode = .spectrum ∧
    Machine.Inv spectral ∧ spectral.specDirty = false ∧ Machine.Inv dirty ∧ dirty.specDirty = true :=
  ⟨rfl, rfl, rfl, rfl, spectral_inv, rfl, dirty_inv, rfl⟩

theorem witness_OutputRingReadback :
    spectral.halt = false ∧ spectral.mode = .spectrum ∧ Machine.Inv spectral ∧ spectral.specDirty = false ∧
    spectral.outRing.r = spectral.outRing.w ∧ 7 < spectral.act.size :=
  ⟨rfl, rfl, spectral_inv, rfl, rfl, by decide⟩

theorem witness_GetbinReadsElement :
    Ready base ∧ base.act.numBins ≤ (5#20).toNat ∧ (4#20).toNat < base.act.numBins ∧
    base.act.size ≤ (8#20).toNat ∧ (7#20).toNat < base.act.size := ⟨base_ready, by decide +kernel⟩

theorem witness_SetbinWritesElement :
    Ready spectral ∧ Machine.Inv spectral ∧ ¬ (BinArray.amp = .frq ∨ BinArray.amp = .win) ∧
    spectral.act.numBins ≤ (5#20).toNat ∧ (4#20).toNat < spectral.act.numBins ∧
    (BinArray.phs, 4) ≠ (BinArray.amp, (4#20).toNat) :=
  ⟨spectral_ready, spectral_inv, by decide, by decide +kernel, by decide +kernel, by decide +kernel⟩

/-- The first index outside each array, and the last inside. -/
theorem witness_IndexRangeChecked :
    Ready peaked ∧ (Instr.getwt 5).wellFormed = true ∧ exec (.getwt 5) peaked = .next (after (.getwt 5) peaked) ∧
    peaked.act.tabLen < (5#20).toNat ∧ ¬ peaked.act.tabLen < (4#20).toNat ∧
    peaked.act.numBins ≤ (5#20).toNat ∧ peaked.act.size ≤ (8#20).toNat ∧ peaked.act.slots ≤ (2#20).toNat ∧
    peaked.pk.length ≤ (1#20).toNat ∧ ¬ peaked.pk.length ≤ (0#20).toNat :=
  ⟨peaked_ready, by decide, exec_after _ _, by decide +kernel⟩

theorem witness_WtgenGeneratesTable :
    (1#8) ≠ 0 ∧ Ready base ∧ base.wtValid = true ∧ base.wtKind = (0#8).setWidth 32 ∧
    ¬ (base.wtValid = true ∧ base.wtKind = (0#8).setWidth 32 ∧ true = false) ∧ 3 < base.act.tabLen :=
  ⟨by decide, base_ready, by decide +kernel⟩

theorem witness_GetwtReadsTable :
    Ready base ∧ base.act.tabLen < (5#20).toNat ∧ (4#20).toNat ≤ base.act.tabLen := ⟨base_ready, by decide +kernel⟩

/-- Index 2 of two slots; a frequency at the Nyquist frequency and the next above it; values not finite. -/
theorem witness_OstartSetsSlot :
    (Ready base ∧ Machine.Inv base) ∧ base.act.slots ≤ (2#20).toNat ∧ (1#20).toNat < base.act.slots ∧
    F32.isFinite 0x7F800000#32 = false ∧ F32.isFinite 0xFF7FFFFF#32 = true ∧
    (F32.isFinite 0x40800000#32 = true ∧ F32.le F32.zero 0x40800000#32 = true ∧
      F32.le 0x40800000#32 (F32.div base.act.sampleRate F32.two) = true) ∧
    F32.le 0x40800001#32 (F32.div base.act.sampleRate F32.two) = false :=
  ⟨⟨base_ready, base_inv⟩, by decide +kernel⟩

theorem witness_OstopSilencesSlot :
    (Ready base ∧ Machine.Inv base) ∧ base.act.slots ≤ (2#20).toNat ∧ (1#20).toNat < base.act.slots :=
  ⟨⟨base_ready, base_inv⟩, by decide +kernel⟩

/-- As for `OSTART`, with the least frequency, `+0`, and the next below it. -/
theorem witness_OupdSetsGlide :
    (Ready base ∧ Machine.Inv base) ∧ base.act.slots ≤ (2#20).toNat ∧ (1#20).toNat < base.act.slots ∧
    F32.isFinite 0x7FC00000#32 = false ∧
    (F32.isFinite 0#32 = true ∧ F32.le F32.zero 0#32 = true ∧
      F32.le 0#32 (F32.div base.act.sampleRate F32.two) = true) ∧
    F32.le F32.zero 0x80000001#32 = false :=
  ⟨⟨base_ready, base_inv⟩, by decide +kernel⟩

/-- A slot without a glide, one before its last glide call and one at it. -/
theorem witness_OnextRendersSample :
    (Ready base ∧ Machine.Inv base) ∧ (Ready (gliding 2) ∧ Machine.Inv (gliding 2)) ∧
    (Ready (gliding 1) ∧ Machine.Inv (gliding 1)) ∧
    base.act.slots ≤ (2#20).toNat ∧ (1#20).toNat < base.act.slots ∧
    (base.slot 0).stepsLeft = 0 ∧ ((gliding 1).slot 0).stepsLeft = 1 ∧ 2 ≤ ((gliding 2).slot 0).stepsLeft.toNat :=
  ⟨⟨base_ready, base_inv⟩, ⟨⟨rfl, nofun⟩, gliding_2_inv⟩, ⟨⟨rfl, nofun⟩, gliding_1_inv⟩, by decide +kernel⟩

theorem witness_OactWritesActiveBit :
    (Ready base ∧ Machine.Inv base) ∧ base.act.slots ≤ (2#20).toNat ∧ (1#20).toNat < base.act.slots :=
  ⟨⟨base_ready, base_inv⟩, by decide +kernel⟩

theorem witness_GetoscReadsField :
    Ready base ∧ base.act.slots ≤ (2#20).toNat ∧ (1#20).toNat < base.act.slots := ⟨base_ready, by decide +kernel⟩

/-- A glide of two calls, looked at before its end (`k = 1`) and at it (`k = 2`). -/
theorem witness_GlideLaw :
    Machine.Inv base ∧ 1 ≤ (2#32).toNat ∧
    exec (.oupd 0 0x3F000000#32 0x40000000#32 0 2) base
      = .next (after (.oupd 0 0x3F000000#32 0x40000000#32 0 2) base) ∧
    responseCode (after (.oupd 0 0x3F000000#32 0x40000000#32 0 2) base) = some 0 ∧
    1 < (2#32).toNat ∧ (2#32).toNat ≤ 2 :=
  ⟨base_inv, by decide, exec_after _ _, by decide +kernel, by decide, by decide⟩

/-- The greatest position in the largest table; a phase that `ONEXT` changes. -/
theorem witness_PhaseInvariant :
    Machine.Inv base ∧ exec (.onext 0) base = .next (after (.onext 0) base) ∧
    ((after (.onext 0) base).slot 0).ph ≠ (base.slot 0).ph :=
  ⟨base_inv, exec_after _ _, by decide +kernel⟩

theorem witness_PeaksRebuildsList : Ready base ∧ Machine.Inv base := ⟨base_ready, base_inv⟩

theorem witness_PeakCapacity_num : base.num.Lawful := F32.lawful

/-- T36's two peaks, at bins 2 and 6. -/
theorem witness_PeakCapacity :
    let s : State :=
      { base with
        mag := [0, 0x3F800000#32, 0x40000000#32, 0x3F800000#32, 0, 0x3F800000#32, 0x40000000#32, 0x3F800000#32, 0]
        mthr := List.replicate 9 0 }
    2 ≤ 2 ∧ 2 < 6 ∧ candidate s.num s.mag s.mthr 2 = true ∧ candidate s.num s.mag s.mthr 6 = true := by decide +kernel

theorem witness_GetpkReadsField :
    Ready peaked ∧ peaked.pk.length ≤ (1#20).toNat ∧ (peaked.pk[(0#20).toNat]?).isSome = true ∧
    Instr.xfmFft ≠ .peaks ∧ Instr.xfmFft ≠ .init ∧ exec .xfmFft peaked = .next (after .xfmFft peaked) :=
  ⟨peaked_ready, by decide +kernel, by decide +kernel, nofun, nofun, exec_after _ _⟩

/-- An active and an inactive slot; `RDS` with none active stands in `test_rds_gain`. -/
theorem witness_RdsMixesActiveSlots :
    (Ready base ∧ Machine.Inv base) ∧ (Ready silent ∧ Machine.Inv silent) ∧ 0 < base.act.slots ∧
    (base.slot 0).active = true ∧ (base.slot 1).active = false :=
  ⟨⟨base_ready, base_inv⟩, ⟨⟨rfl, nofun⟩, silent_inv⟩, by decide +kernel⟩

/-- Every premise of a transition, with the counters at the thresholds 2, 2. -/
theorem witness_TrackTransitions :
    let t : Track := { Track.initial F32.type with status := .birth, birthFrames := 1, dyingFrames := 1 }
    t.status = .birth ∧ 2 ≤ t.birthFrames + 1 ∧ { t with birthFrames := 0 }.birthFrames + 1 < 2 ∧
    { t with status := .alive }.status = .alive ∧ { t with status := .dying }.status = .dying ∧
    2 ≤ t.dyingFrames + 1 ∧ { t with dyingFrames := 0 }.dyingFrames + 1 < 2 ∧ (Track.initial F32.type).status = .dead := by
  decide +kernel

theorem witness_TrackLifecycle :
    1 ≤ 1 ∧ 0 < 1 ∧ { Track.initial F32.type with status := .alive }.status = .alive := by decide +kernel

/-- A detected peak at 1 Hz. -/
def near : TrackMatch :=
  { binIndex := 20, isDetected := true, isAssigned := false, amplitude := 0x3F000000#32, frequency := 0x3F800000#32,
    phase := 0, distanceSquared := 0 }

/-- Two tracks at 2 Hz with a window of 1 Hz and two peaks at 1 Hz alike in everything: at its turn each claims the
lower index of what is left, a dead track none. -/
theorem witness_AssignmentIsInjective :
    F32.type.Lawful ∧
    let t : Track := { Track.initial F32.type with status := .alive, frequency := 0x40000000#32 }
    let claims := (assign F32.type (Weights.unit F32.type) (fun _ => 0x3F800000#32) [t, Track.initial F32.type, t]
      [near, near]).1
    claims = [some 0, none, some 1] ∧ t.status ≠ .dead ∧ near.isAssigned = false ∧
    F32.type.le (distance F32.type near.frequency t.frequency) 0x3F800000#32 = true ∧
    (∀ i < 2, claims[i]? ≠ some (some 1)) := by
  refine ⟨F32.lawful, by decide +kernel⟩

/-- One audible and one dead track on the two slots of `base`, and one peak that `GETPK` can deliver. -/
theorem witness_SyncKeepsAudibleSet :
    let h : HostState :=
      { pool := [{ Track.initial F32.type with status := .alive, frequency := 0x3F800000#32 }, Track.initial F32.type]
        trackBirth := 1, trackDeath := 1, weights := Weights.unit F32.type }
    Ready base ∧ Machine.Inv base ∧ h.fits base ∧
    (∀ m ∈ [near], base.num.isFinite m.amplitude = true
      ∧ freqLegal base.num (base.act.nyquist base.num) m.frequency = true ∧ base.num.isFinite m.phase = true) ∧
    (∀ (j : Nat) (t : Track), h.pool[j]? = some t → (base.slot j).active = t.audible) := by
  refine ⟨base_ready, base_inv, rfl, by decide +kernel, fun j t ht => ?_⟩
  match j, ht with
  | 0, ht => cases ht; rfl
  | 1, ht => cases ht; rfl

/-- T30's three points. -/
theorem witness_RealParabolaVertex : (1 : ℝ) < 3 ∧ (2 : ℝ) < 3 ∧ (1 : ℝ) < 2 := by norm_num

/-- The unit impulse, its transform and its inverse for `P = 4`. -/
theorem witness_RealTransformInverse : ∃ x re im y : ℕ → ℝ,
    x 0 = 1 ∧ Ideal.IsForward 4 x re im ∧ Ideal.IsInverse 4 re im y :=
  ⟨fun n => if n = 0 then 1 else 0, _, _, _, rfl, fun _ _ => ⟨rfl, rfl⟩, fun _ _ => rfl⟩

/-- The sum of the greatest finite value and half its unit, which is the overflow threshold, and of it and the next less
value, which is below; a product and a quotient on either side; a division by zero. -/
theorem witness_ArithmeticRoundsToNearestEven :
    let limit : Int := (2 ^ 25 - 1) * 2 ^ 252
    let one : Int := F32.quantaPerOne
    let v := F32.scaled
    F32.isFinite 0x7F7FFFFF#32 = true ∧ F32.isFinite 0x73000000#32 = true ∧ F32.isFinite F32.one = true ∧
    limit ≤ |v 0x7F7FFFFF#32 - v 0xF3000000#32| ∧ |v 0x7F7FFFFF#32 - v F32.one| < limit ∧
    limit ≤ |v 0x7F7FFFFF#32 + v 0x73000000#32| ∧ |v 0x7F7FFFFF#32 + v 0x72FFFFFF#32| < limit ∧
    limit * one ≤ |v 0x7F7FFFFF#32 * v F32.two| ∧ |v 0x7F7FFFFF#32 * v F32.one| < limit * one ∧
    v F32.half ≠ 0 ∧ limit * |v F32.half| ≤ |v 0x7F7FFFFF#32| * one ∧
    v F32.one ≠ 0 ∧ |v 0x7F7FFFFF#32| * one < limit * |v F32.one| ∧ v 0x80000000#32 = 0 := by decide +kernel

/-- R12 at the threshold: a tie at the overflow threshold rounds to infinity, just below it to the greatest finite value;
the sign of a zero divisor counts. -/
theorem test_overflow_threshold :
    F32.add 0x7F7FFFFF#32 0x73000000#32 = 0x7F800000#32 ∧ F32.add 0x7F7FFFFF#32 0x72FFFFFF#32 = 0x7F7FFFFF#32 ∧
    F32.sub 0xFF7FFFFF#32 0x73000000#32 = 0xFF800000#32 ∧ F32.sub F32.one F32.one = 0x00000000#32 ∧
    F32.mul 0xFF7FFFFF#32 F32.two = 0xFF800000#32 ∧ F32.div F32.one 0x80000000#32 = 0xFF800000#32 := by decide +kernel

theorem witness_SqrtRoundsToNearest :
    F32.isFinite 0x80000000#32 = true ∧ 0 ≤ F32.scaled 0x80000000#32 ∧
    F32.isFinite 0x7F7FFFFF#32 = true ∧ 0 ≤ F32.scaled 0x7F7FFFFF#32 := by decide +kernel

/-- A glide that stays in range, one command that is no `Next`, and `INIT`. -/
theorem witness_SlotRangesKept :
    (Machine.Inv (gliding 2) ∧ exec (.onext 0) (gliding 2) = .next (after (.onext 0) (gliding 2)) ∧
      SlotsInRange (gliding 2) ∧
      ∀ o ∈ (gliding 2).osc, 2 ≤ o.stepsLeft.toNat →
        (gliding 2).num.isFinite ((gliding 2).num.add o.amp o.ampStep) = true ∧
        freqLegal (gliding 2).num ((gliding 2).act.nyquist (gliding 2).num) ((gliding 2).num.add o.freq o.freqStep)
          = true) ∧
    (Machine.Inv base ∧ SlotsInRange base ∧ exec (.ostop 0) base = .next (after (.ostop 0) base) ∧
      (∀ o ∈ base.osc, o.stepsLeft.toNat < 2) ∧
      (Machine.Inv (gliding 1) ∧ SlotsInRange (gliding 1) ∧ ∀ o ∈ (gliding 1).osc, o.stepsLeft.toNat < 2)) ∧
    Params.Legal {} ∧ ((0 : ℝ) ≤ 1 ∧ (1 : ℝ) ≤ 2 ∧ 1 ≤ 1) :=
  ⟨⟨gliding_2_inv, exec_after _ _, by unfold SlotsInRange; decide +kernel, by decide +kernel⟩,
   ⟨base_inv, by unfold SlotsInRange; decide +kernel, exec_after _ _, by decide +kernel, gliding_1_inv,
    by unfold SlotsInRange; decide +kernel, by decide +kernel⟩, Params.default_legal, by norm_num⟩

/-- R206 as written, in binary32: an amplitude of 3e38 updated to -3e38 over four calls has an overflowing step, and the
first glide call leaves an infinite amplitude (log entry 16). -/
theorem test_glide_overflow :
    let s := { base with osc := [{ tone with amp := 0x7F61B1E6#32, tAmp := 0x7F61B1E6#32 }, Osc.zero F32.type] }
    let t := after (.onext 0) (after (.oupd 0 0xFF61B1E6#32 0x3F800000#32 0 4) s)
    (t.slot 0).amp = 0xFF800000#32 ∧ invariantCheck s = true ∧ invariantCheck t = false := by
  decide +kernel

/-- R204, R206 as written, in binary32: a legal `OUPD` from 1 Hz to a Nyquist frequency of 1 + 6 * 2^-23 Hz in ten calls
has a step of 0.6 last places, and nine of its rounded additions leave a frequency of 1 + 9 * 2^-23 Hz (log entry 16). -/
theorem test_glide_leaves_nyquist :
    let nyquist : NUM := 0x3F800006#32
    let step := F32.div (F32.sub nyquist F32.one) (F32.ofNat 10)
    F32.div (F32.mul F32.two nyquist) F32.two = nyquist ∧ (F32.add · step)^[9] F32.one = 0x3F800009#32 ∧
    F32.le 0x3F800009#32 nyquist = false := by decide +kernel

theorem witness_HostStartsInSync :
    configLegal State.reset.params State.reset.staged = true ∧
    (HostState.start 2 2 (after .init State.reset)).pool.length = 32 := by decide +kernel

/-- R264: the `OACT` that promotes a track goes out after every command of step 7. -/
theorem test_activity_last :
    let peak := fun f : NUM =>
      ({ binIndex := 0, isDetected := true, isAssigned := false, amplitude := 0x3F000000#32, frequency := f, phase := 0,
         distanceSquared := 0 } : TrackMatch)
    let t := Track.begin (peak 0x43DC0000#32)
    let h : HostState :=
      { pool := [t, { t with status := .alive, frequency := 0x44FA0000#32 }, Track.initial F32.type]
        trackBirth := 1, trackDeath := 1, weights := Weights.unit F32.type }
    (breakpoint F32.type (fun _ => 0x41200000#32) (fun _ => 0) 256 h
      [peak 0x43DC0000#32, peak 0x44FA0000#32, peak 0x447A0000#32]).2
      = [.oupd 0 0x3F000000#32 0x43DC0000#32 0 256, .oupd 1 0x3F000000#32 0x44FA0000#32 0 256,
         .ostart 2 0x3F000000#32 0x447A0000#32 0, .oact true 0] := by decide +kernel

end Sys2Proof.Tests
end

section
/-! PROOFS. The family 00_scope.md: one step of the command port, and what rounding once to binary32 means for the four
arithmetic operations and the square root (R12). -/

namespace Sys2Proof

/-- The table reader answers what the decoder makes of the word's packet. -/
theorem decodeTableWord_eq_some_iff {nbits w : Nat} {i : Instr} :
    decodeTableWord nbits w = some i ↔ decode (tableWords nbits w) = .ok i := by
  unfold decodeTableWord
  cases decode (tableWords nbits w) <;> simp

end Sys2Proof

namespace Sys2Proof.Machine

/-! ## One step of the command port (R15, R90, R94) -/

theorem runPacket_of_decode {ws : List Word} {i : Instr} {s : State} (h : decode ws = .ok i) :
    runPacket ws s = exec i s := by simp [runPacket, h]

theorem step_of_fetch_packet {s t : State} {ws : List Word} (h : fetch s = some (.packet ws, t)) :
    step s = runPacket ws t := by simp [step, h]

/-- Settles O5: the packet on the port is what `fetch` answers, and `runPacket` executes what it decodes to. -/
theorem stepRunsDecodedCommand : Obligations.StepRunsDecodedCommand := by
  unfold Obligations.StepRunsDecodedCommand
  refine ⟨fun s ws rest i hport hdec => ?_, fun s nbits w i hword => ?_⟩
  · rw [step_of_fetch_packet (fetch_cons s hport), runPacket_of_decode hdec]
  · rw [step_of_fetch_packet (fetch_withFetchWord s nbits w), runPacket_of_decode (decodeTableWord_eq_some_iff.1 hword)]

end Sys2Proof.Machine

namespace Sys2Proof.F32

/-! ## The nearest multiple of a unit -/

section Nearest

variable {K : Type*} [CommRing K] [LinearOrder K] [IsStrictOrderedRing K]

/-- Of the multiples of a unit, one at most half a unit away is nearest, and another is as near only in a tie. -/
theorem nearest_multiple {u x : K} {r : ℤ} (near : 2 * |r * u - x| ≤ u) (k : ℤ) :
    |r * u - x| ≤ |k * u - x| ∧ (r ≠ k → |r * u - x| = |k * u - x| → 2 * |r * u - x| = u) := by
  rcases eq_or_ne r k with rfl | hne
  · exact ⟨le_rfl, fun h => absurd rfl h⟩
  · have hu : 0 ≤ u := by linarith [abs_nonneg (r * u - x)]
    have hk : (1 : K) ≤ |(k : K) - r| := by
      rw [← Int.cast_sub, ← Int.cast_abs]
      exact_mod_cast Int.one_le_abs (sub_ne_zero.2 hne.symm)
    have apart : u ≤ |k * u - x| + |r * u - x| := calc
      u ≤ |(k : K) - r| * u := le_mul_of_one_le_left hu hk
      _ = |(k * u - x) - (r * u - x)| := by rw [← abs_of_nonneg hu, ← abs_mul, abs_of_nonneg hu]; ring_nf
      _ ≤ |k * u - x| + |r * u - x| := abs_sub _ _
    exact ⟨by linarith, fun _ tie => by linarith⟩

/-- A significand `r` at scale `2^e` within half a unit of `x / d` is nearest to it among the multiples of the scale and
the integers below `2^(23+e)`, if `x / d` is not below that power; another is as near only in a tie. -/
theorem nearest_significand {d x : K} {r v : ℤ} {e : ℕ} (hd : 0 < d) (near : 2 * |r * (2 ^ e * d) - x| ≤ 2 ^ e * d)
    (lead : e = 0 ∨ 2 ^ (23 + e) * d ≤ x) (hv : 2 ^ e ∣ v ∨ |v| < 2 ^ (23 + e)) :
    |r * (2 ^ e * d) - x| ≤ |v * d - x| ∧
      (r * 2 ^ e ≠ v → |r * (2 ^ e * d) - x| = |v * d - x| → 2 * |r * (2 ^ e * d) - x| = 2 ^ e * d) := by
  by_cases hdvd : 2 ^ e ∣ v
  · obtain ⟨k, rfl⟩ := hdvd
    have hk : ((2 ^ e * k : ℤ) : K) * d = k * (2 ^ e * d) := by push_cast; ring
    rw [hk]
    exact ⟨(nearest_multiple near k).1, fun hne => (nearest_multiple near k).2 fun h => hne (by rw [h, mul_comm])⟩
  · have hlt : v < 2 ^ (23 + e) := (abs_lt.1 (hv.resolve_left hdvd)).2
    have hlead : 2 ^ (23 + e) * d ≤ x := lead.resolve_left fun h => hdvd (by simp [h])
    have hvd : v * d < 2 ^ (23 + e) * d := by
      refine mul_lt_mul_of_pos_right ?_ hd
      exact_mod_cast hlt
    have farther : |r * (2 ^ e * d) - x| < |v * d - x| := calc
      _ ≤ |((2 ^ 23 : ℤ) : K) * (2 ^ e * d) - x| := (nearest_multiple near _).1
      _ = |2 ^ (23 + e) * d - x| := by push_cast; ring_nf
      _ = x - 2 ^ (23 + e) * d := by rw [abs_of_nonpos (by linarith), neg_sub]
      _ < x - v * d := by linarith
      _ ≤ |v * d - x| := by rw [abs_sub_comm]; exact le_abs_self _
    exact ⟨farther.le, fun _ h => absurd h farther.ne⟩

end Nearest

/-! ## Which integers are finite values -/

theorem abs_scaled (c : NUM) : |scaled c| = quanta c := by
  unfold scaled; split <;> simp

theorem natAbs_scaled (c : NUM) : (scaled c).natAbs = quanta c := by
  unfold scaled; split <;> simp

/-- Every value is a multiple of `2^e` quanta or has a magnitude below `2^(23+e)` of them. -/
theorem pow_dvd_quanta_or_lt (c : NUM) (e : ℕ) : 2 ^ e ∣ quanta c ∨ quanta c < 2 ^ (23 + e) := by
  have hf := frac_lt c
  unfold quanta
  split
  · exact .inr (hf.trans_le (Nat.pow_le_pow_right (by omega) (by omega)))
  · rcases le_or_gt e (expo c - 1) with he | he
    · exact .inl (Dvd.dvd.mul_left (pow_dvd_pow 2 he) _)
    · right
      calc (2 ^ 23 + frac c) * 2 ^ (expo c - 1) < 2 ^ 24 * 2 ^ (expo c - 1) := by gcongr; omega
        _ = 2 ^ (24 + (expo c - 1)) := (pow_add ..).symm
        _ ≤ 2 ^ (23 + e) := Nat.pow_le_pow_right (by omega) (by omega)

/-- What the integers that are values have in common: at every scale `2^e` one is a multiple of it or below `2^23` units of
it. -/
def IsValue (v : ℤ) : Prop := ∀ e : ℕ, 2 ^ e ∣ v ∨ |v| < 2 ^ (23 + e)

theorem isValue_scaled (c : NUM) : IsValue (scaled c) := fun e => by
  rw [← dvd_abs, abs_scaled]
  exact_mod_cast pow_dvd_quanta_or_lt c e

/-- A finite magnitude has a significand below `2^24` and the scale `2^253` at most. -/
theorem quanta_lt {c : NUM} (h : isFinite c = true) : quanta c < 2 ^ 24 * 2 ^ 253 := by
  have hf := frac_lt c
  have he := expo_lt c
  have hne : expo c ≠ 255 := by simpa [isFinite] using h
  unfold quanta
  split
  · omega
  · calc (2 ^ 23 + frac c) * 2 ^ (expo c - 1) < 2 ^ 24 * 2 ^ (expo c - 1) := by gcongr; omega
      _ ≤ 2 ^ 24 * 2 ^ 253 := by gcongr <;> omega

/-! ## The overflow threshold -/

/-- Half a unit above the greatest finite value, in quanta. -/
def overflowQuanta : ℕ := (2 ^ 25 - 1) * 2 ^ 252

theorem pow_le_overflowQuanta {e : ℕ} (he : e ≤ 276) : 2 ^ e ≤ overflowQuanta := calc
  2 ^ e ≤ 2 ^ (24 + 252) := Nat.pow_le_pow_right (by omega) he
  _ = 2 ^ 24 * 2 ^ 252 := pow_add ..
  _ ≤ overflowQuanta := Nat.mul_le_mul_right _ (by norm_num)

theorem overflowQuanta_le_pow {e : ℕ} (he : 277 ≤ e) : overflowQuanta ≤ 2 ^ e := calc
  overflowQuanta ≤ 2 ^ 25 * 2 ^ 252 := Nat.mul_le_mul_right _ (by norm_num)
  _ ≤ 2 ^ 25 * 2 ^ (e - 25) := Nat.mul_le_mul_left _ (Nat.pow_le_pow_right (by omega) (by omega))
  _ = 2 ^ e := by rw [← pow_add, Nat.add_sub_cancel' (by omega)]

/-- Where places are dropped, the quotient is at least `2^23` units of the scale. -/
theorem droppedPlaces_lead {num den : ℕ} (hd : 0 < den) :
    droppedPlaces num den = 0 ∨ 2 ^ (23 + droppedPlaces num den) * den ≤ num := by
  rcases Nat.eq_zero_or_pos (droppedPlaces num den) with h0 | h0
  · exact .inl h0
  · right
    have hq : num / den ≠ 0 := fun h => by simp [droppedPlaces, h] at h0
    have hlog : 23 + droppedPlaces num den = (num / den).log2 := by unfold droppedPlaces at *; omega
    rw [← Nat.le_div_iff_mul_le hd, hlog]
    exact Nat.log2_self_le hq

/-- The quotient is below `2^24` units of the scale. -/
theorem lt_droppedPlaces {num den : ℕ} (hd : 0 < den) : num < 2 ^ (24 + droppedPlaces num den) * den := by
  rw [← Nat.div_lt_iff_lt_mul hd]
  exact Nat.lt_log2_self.trans_le (Nat.pow_le_pow_right (by omega) (by unfold droppedPlaces; omega))

/-- Rounding stays at or below an odd integer exactly below half a unit above it: there the tie goes up. -/
theorem roundDiv_le_odd_iff {num den k : ℕ} (hd : 0 < den) (hk : k % 2 = 1) :
    roundDiv num den ≤ k ↔ 2 * num < (2 * k + 1) * den := by
  obtain ⟨hup, hdown⟩ := roundDiv_near num hd
  have tie := roundDiv_even (num := num) hd
  constructor
  · intro h
    by_contra! hge
    have : roundDiv num den * den ≤ k * den := Nat.mul_le_mul_right _ h
    have heq : roundDiv num den * den = k * den := by
      linarith
    have : roundDiv num den = k := Nat.eq_of_mul_eq_mul_right hd heq
    have := tie (.inl (by linarith))
    omega
  · intro h
    by_contra! hgt
    have : (k + 1) * den ≤ roundDiv num den * den := Nat.mul_le_mul_right _ hgt
    linarith

/-- Rounding gives infinity exactly from the overflow threshold on. -/
theorem roundQuanta_lt_infBits_iff {num den : ℕ} (hd : 0 < den) :
    roundQuanta num den < infBits ↔ num < overflowQuanta * den := by
  obtain ⟨hr, hr'⟩ := significand_range (num := num) (den := den)
  have hlead := droppedPlaces_lead (num := num) hd
  have hlt := lt_droppedPlaces (num := num) hd
  have hodd := roundDiv_le_odd_iff (num := num) (den := den * 2 ^ 253) (k := 2 ^ 24 - 1) (by positivity) (by norm_num)
  have hbits : roundQuanta num den < infBits ↔ droppedPlaces num den * 2 ^ 23
      + roundDiv num (den * 2 ^ droppedPlaces num den) < infBits := by
    simp [roundQuanta, droppedPlaces]
  rw [hbits]
  generalize droppedPlaces num den = e at *
  unfold infBits
  rcases lt_trichotomy e 253 with he | rfl | he
  · exact iff_of_true (by omega) (hlt.trans_le (Nat.mul_le_mul_right _ (pow_le_overflowQuanta (by omega))))
  · calc _ ↔ roundDiv num (den * 2 ^ 253) ≤ 2 ^ 24 - 1 := by omega
      _ ↔ _ := hodd
      _ ↔ _ := by unfold overflowQuanta; omega
  · refine iff_of_false (by omega) (not_lt.2 ?_)
    exact le_trans (Nat.mul_le_mul_right _ (overflowQuanta_le_pow (by omega))) (hlead.resolve_left (by omega))

/-! ## Sign and magnitude -/

/-- `v`, or `-v` where the sign bit is set. -/
def withSign (neg : Bool) (v : ℤ) : ℤ := if neg then -v else v

theorem scaled_eq_withSign (x : NUM) : scaled x = withSign (sign x) (quanta x) := rfl

@[simp] theorem withSign_withSign (s : Bool) (v : ℤ) : withSign s (withSign s v) = v := by
  cases s <;> simp [withSign]

@[simp] theorem abs_withSign (s : Bool) (v : ℤ) : |withSign s v| = |v| := by
  cases s <;> simp [withSign]

theorem IsValue.withSign {v : ℤ} (h : IsValue v) (s : Bool) : IsValue (withSign s v) := by
  cases s <;> simpa [F32.withSign, IsValue] using h

/-! ## Rounding a magnitude -/

theorem two_mul_abs_roundDiv_le (num : ℕ) {den : ℕ} (hd : 0 < den) :
    2 * |(roundDiv num den * den - num : ℤ)| ≤ den := by
  obtain ⟨hup, hdown⟩ := roundDiv_near num hd
  zify at hup hdown
  rcases abs_cases (roundDiv num den * den - num : ℤ) with ⟨h, _⟩ | ⟨h, _⟩ <;> linarith

theorem roundDiv_even_of_tie {num den : ℕ} (hd : 0 < den)
    (tie : 2 * |(roundDiv num den * den - num : ℤ)| = den) : roundDiv num den % 2 = 0 := by
  refine roundDiv_even hd ?_
  zify
  rcases abs_cases (roundDiv num den * den - num : ℤ) with ⟨h, _⟩ | ⟨h, _⟩
  · right; linarith
  · left; linarith

/-- The bits of a quotient below the overflow threshold: the dropped places over the rounded significand. -/
theorem roundQuanta_eq {num den : ℕ} (h : roundQuanta num den < infBits) :
    roundQuanta num den = droppedPlaces num den * 2 ^ 23 + roundDiv num (den * 2 ^ droppedPlaces num den) := by
  have hmin : roundQuanta num den = min (droppedPlaces num den * 2 ^ 23
      + roundDiv num (den * 2 ^ droppedPlaces num den)) infBits := rfl
  omega

theorem bitQuanta_roundQuanta {num den : ℕ} (h : roundQuanta num den < infBits) :
    bitQuanta (roundQuanta num den)
      = roundDiv num (den * 2 ^ droppedPlaces num den) * 2 ^ droppedPlaces num den := by
  rw [← quanta_roundQuanta false h, quanta_pack]
  unfold infBits at h; omega

theorem isFinite_pack {s : Bool} {b : ℕ} (h : b < infBits) : isFinite (pack s b) = true := by
  unfold infBits at h
  have : b / 2 ^ 23 ≠ 255 := by omega
  simpa [isFinite, expo_pack (by omega : b < 2 ^ 31)] using this

theorem scaled_pack {s : Bool} {b : ℕ} (h : b < infBits) : scaled (pack s b) = withSign s (bitQuanta b) := by
  have h31 : b < 2 ^ 31 := by unfold infBits at h; omega
  rw [scaled_eq_withSign, sign_pack h31, quanta_pack h31]

theorem pack_toNat_mod_two {s : Bool} {b : ℕ} (h : b < infBits) : (pack s b).toNat % 2 = b % 2 := by
  rw [pack_toNat (h.trans (by decide))]
  cases s
  · rfl
  · exact Nat.add_mul_mod_self_left b 2 (2 ^ 30)

/-- The rounded magnitude is nearest to the quotient among the integers that are values, of either sign; another is as
near only in a tie, which goes to the even bits. -/
theorem bitQuanta_roundQuanta_nearest {num den : ℕ} (hd : 0 < den) (h : roundQuanta num den < infBits) {v : ℤ}
    (hv : IsValue v) :
    |(bitQuanta (roundQuanta num den) * den - num : ℤ)| ≤ |v * den - num| ∧
      (bitQuanta (roundQuanta num den) ≠ v → |(bitQuanta (roundQuanta num den) * den - num : ℤ)| = |v * den - num| →
        roundQuanta num den % 2 = 0) := by
  have hpos : 0 < den * 2 ^ droppedPlaces num den := by positivity
  have hnear := two_mul_abs_roundDiv_le num hpos
  have heven := roundDiv_even_of_tie (num := num) hpos
  have hlead := droppedPlaces_lead (num := num) hd
  rw [bitQuanta_roundQuanta h, roundQuanta_eq h]
  generalize droppedPlaces num den = e at *
  generalize roundDiv num (den * 2 ^ e) = r at *
  have hunit : ((den * 2 ^ e : ℕ) : ℤ) = 2 ^ e * den := by push_cast; ring
  have hscale : ((r * 2 ^ e : ℕ) : ℤ) * den = r * (2 ^ e * den) := by push_cast; ring
  rw [hunit] at hnear heven
  rw [hscale]
  obtain ⟨near, tie⟩ := nearest_significand (r := (r : ℤ)) (by exact_mod_cast hd) hnear
    (by exact_mod_cast hlead) (hv e)
  refine ⟨near, fun hne heq => ?_⟩
  have := heven (tie (by simpa using hne) heq)
  omega

/-! ## Rounding an exact quotient with a sign -/

/-- `r` is `n / d` quanta rounded once, with the sign of the quotient; a zero quotient may have either sign. -/
def IsRounded (r : NUM) (n d : ℤ) : Prop :=
  ∃ s, r = pack s (roundQuanta n.natAbs d.natAbs) ∧ (n ≠ 0 → s = decide (n * d < 0))

/-- The infinity of a sign. -/
def infinityOf (negative : Bool) : NUM := if negative then 0xFF800000#32 else 0x7F800000#32

theorem pack_infBits (s : Bool) : pack s infBits = infinityOf s := by cases s <;> rfl

/-- The distance to a quotient is the distance to its magnitude, once its sign is taken from the value. -/
theorem abs_mul_sub_eq {s : Bool} {n d : ℤ} (hd : d ≠ 0) (hs : n ≠ 0 → s = decide (n * d < 0)) (v : ℤ) :
    |v * d - n| = |withSign s v * |d| - (|n|)| := by
  rcases eq_or_ne n 0 with rfl | hn
  · simp [abs_mul]
  · rw [hs hn, withSign, abs_eq_abs]
    rcases lt_or_gt_of_ne hd with hd | hd <;> rcases lt_or_gt_of_ne hn with hn | hn
    · right; simp [abs_of_neg, hd, hn, (mul_pos_of_neg_of_neg hn hd).not_gt]; ring
    · left; simp [abs_of_neg, abs_of_pos, hd, hn, mul_neg_of_pos_of_neg hn hd]
    · right; simp [abs_of_neg, abs_of_pos, hd, hn, mul_neg_of_neg_of_pos hn hd]; ring
    · left; simp [abs_of_pos, hd, hn, (mul_pos hn hd).not_gt]

/-- `r` is finite and as near to `n / d` as `c`; where both are equally near and differ, `r` has the even fraction. -/
def NearestEven (r c : NUM) (n d : ℤ) : Prop :=
  isFinite r = true ∧ |scaled r * d - n| ≤ |scaled c * d - n| ∧
    (scaled r ≠ scaled c → |scaled r * d - n| = |scaled c * d - n| → r.toNat % 2 = 0)

/-- Below the overflow threshold a quotient rounded once is the nearest value. -/
theorem IsRounded.nearestEven {r : NUM} {n d : ℤ} (h : IsRounded r n d) (hd : d ≠ 0)
    (hlt : |n| < overflowQuanta * |d|) (c : NUM) : NearestEven r c n d := by
  obtain ⟨s, rfl, hs⟩ := h
  have hpos : 0 < d.natAbs := Int.natAbs_pos.2 hd
  have hfin : roundQuanta n.natAbs d.natAbs < infBits := by
    rw [roundQuanta_lt_infBits_iff hpos]; zify; exact hlt
  have hval := scaled_pack (s := s) hfin
  obtain ⟨near, even⟩ := bitQuanta_roundQuanta_nearest hpos hfin ((isValue_scaled c).withSign s)
  rw [Int.natCast_natAbs, Int.natCast_natAbs] at near even
  refine ⟨isFinite_pack hfin, ?_, fun hne heq => ?_⟩
  · rwa [abs_mul_sub_eq hd hs, abs_mul_sub_eq hd hs, hval, withSign_withSign]
  · rw [abs_mul_sub_eq hd hs, abs_mul_sub_eq hd hs (scaled c), hval, withSign_withSign] at heq
    rw [pack_toNat_mod_two hfin]
    exact even (fun h => hne (by rw [hval, h, withSign_withSign])) heq

/-- From the overflow threshold on a quotient rounded once is an infinity. -/
theorem IsRounded.overflow {r : NUM} {n d : ℤ} (h : IsRounded r n d) (hd : d ≠ 0)
    (hle : overflowQuanta * |d| ≤ |n|) : r = infinityOf (decide (n * d < 0)) := by
  obtain ⟨s, rfl, hs⟩ := h
  have hinf : roundQuanta n.natAbs d.natAbs = infBits := by
    refine (roundQuanta_le ..).antisymm (not_lt.1 fun h => ?_)
    rw [roundQuanta_lt_infBits_iff (Int.natAbs_pos.2 hd)] at h
    zify at h
    exact h.not_ge hle
  have hn : n ≠ 0 := abs_pos.1 (lt_of_lt_of_le (by unfold overflowQuanta; positivity) hle)
  rw [hinf, hs hn, pack_infBits]

/-- Rounding once on either side of the overflow threshold. -/
theorem IsRounded.spec {r : NUM} {n d : ℤ} (h : IsRounded r n d) (hd : d ≠ 0) (c : NUM) :
    (|n| < overflowQuanta * |d| → NearestEven r c n d) ∧
    (overflowQuanta * |d| ≤ |n| → r = infinityOf (decide (n * d < 0))) :=
  ⟨fun hlt => h.nearestEven hd hlt c, h.overflow hd⟩

/-! ## The four operations -/

theorem isInf_of_isFinite {x : NUM} (h : isFinite x = true) : isInf x = false := by
  unfold isFinite at h
  simp [isInf, bne_iff_ne.1 h]

theorem quanta_eq_zero_iff (x : NUM) : quanta x = 0 ↔ isZero x = true := by
  unfold quanta
  split <;> simp [isZero, *]

theorem scaled_eq_zero_iff (x : NUM) : scaled x = 0 ↔ isZero x = true := by
  rw [← quanta_eq_zero_iff, ← natAbs_scaled, Int.natAbs_eq_zero]

theorem sign_eq_decide {x : NUM} (h : scaled x ≠ 0) : sign x = decide (scaled x < 0) := by
  have hq : 0 < quanta x := by rw [← natAbs_scaled]; exact Int.natAbs_pos.2 h
  rw [scaled_eq_withSign]
  cases sign x <;> simp [withSign, hq]

theorem quantaPerOne_pos : (0 : ℤ) < quantaPerOne := by unfold quantaPerOne; positivity

theorem mul_quantaPerOne_neg_iff {z : ℤ} : z * quantaPerOne < 0 ↔ z < 0 :=
  ⟨fun h => neg_of_mul_neg_left h quantaPerOne_pos.le, fun h => mul_neg_of_neg_of_pos h quantaPerOne_pos⟩

/-- The sign bits of a product or a quotient that is not zero. -/
theorem sign_bne_sign {a b : NUM} (h : scaled a * scaled b ≠ 0) :
    (sign a != sign b) = decide (scaled a * scaled b < 0) := by
  have hq : 0 < (quanta a * quanta b : ℤ) := by
    rw [← abs_scaled, ← abs_scaled, ← abs_mul]; exact abs_pos.2 h
  rw [scaled_eq_withSign a, scaled_eq_withSign b]
  cases sign a <;> cases sign b <;> simp [withSign, hq, hq.le]

theorem sign_neg (x : NUM) : sign (neg x) = !sign x := by
  simp [sign, neg]

/-- Unary minus leaves the magnitude bits. -/
theorem neg_toNat_mod (x : NUM) : (neg x).toNat % 2 ^ 31 = x.toNat % 2 ^ 31 := by
  rw [neg, BitVec.toNat_xor, Nat.xor_mod_two_pow]
  simp

theorem expo_neg (x : NUM) : expo (neg x) = expo x := by
  have := neg_toNat_mod x
  unfold expo
  omega

theorem frac_neg (x : NUM) : frac (neg x) = frac x := by
  have := neg_toNat_mod x
  unfold frac
  omega

theorem scaled_neg (x : NUM) : scaled (neg x) = -scaled x := by
  have hq : quanta (neg x) = quanta x := by rw [quanta, quanta, expo_neg, frac_neg]
  rw [scaled_eq_withSign, scaled_eq_withSign, hq, sign_neg]
  cases sign x <;> simp [withSign]

theorem isFinite_neg (x : NUM) : isFinite (neg x) = isFinite x := by rw [isFinite, isFinite, expo_neg]

section Operations

variable {a b : NUM} (ha : isFinite a = true) (hb : isFinite b = true)
include ha hb

theorem sum_isRounded (op : Config.NumOp) : IsRounded (sum op a b) (scaled a + scaled b) 1 := by
  simp only [sum, isNaN_of_isFinite, isInf_of_isFinite, ha, hb, Bool.or_self, Bool.false_eq_true, if_false]
  split
  · exact ⟨sign a && sign b, by simp [*], fun h => absurd ‹_› h⟩
  · exact ⟨_, rfl, by simp⟩

theorem add_isRounded : IsRounded (add a b) (scaled a + scaled b) 1 := sum_isRounded ha hb .add

theorem sub_isRounded : IsRounded (sub a b) (scaled a - scaled b) 1 := by
  have h := sum_isRounded ha ((isFinite_neg b).trans hb) .sub
  rwa [scaled_neg, ← sub_eq_add_neg] at h

theorem mul_isRounded : IsRounded (mul a b) (scaled a * scaled b) quantaPerOne := by
  refine ⟨sign a != sign b, ?_, fun h => ?_⟩
  · simp [mul, isNaN_of_isFinite, isInf_of_isFinite, ha, hb, Int.natAbs_mul, natAbs_scaled]
  · rw [sign_bne_sign h, decide_eq_decide, mul_quantaPerOne_neg_iff]

theorem div_isRounded (h : scaled b ≠ 0) : IsRounded (div a b) (scaled a * quantaPerOne) (scaled b) := by
  have hz : isZero b = false := by simpa [scaled_eq_zero_iff] using h
  refine ⟨sign a != sign b, ?_, fun h' => ?_⟩
  · simp [div, isNaN_of_isFinite, isInf_of_isFinite, ha, hb, hz, Int.natAbs_mul, natAbs_scaled]
  · rw [sign_bne_sign (mul_ne_zero (left_ne_zero_of_mul h') h), decide_eq_decide, mul_right_comm,
      mul_quantaPerOne_neg_iff]

theorem div_eq_infinityOf (h : scaled b = 0) (h' : scaled a ≠ 0) :
    div a b = infinityOf (decide (scaled a < 0) != sign b) := by
  have hz : isZero b = true := (scaled_eq_zero_iff b).1 h
  have hz' : isZero a = false := by simpa [scaled_eq_zero_iff] using h'
  rw [← sign_eq_decide h', ← pack_infBits]
  simp [div, isNaN_of_isFinite, isInf_of_isFinite, ha, hb, hz, hz']

end Operations

/-! ## The square root -/

/-- The integer root, and a half unit for the part past it, as `sqrt` doubles them before rounding. -/
def doubledRoot (n : ℕ) : ℕ := if isqrt n * isqrt n = n then 2 * isqrt n else 2 * isqrt n + 1

theorem sqrt_eq_pack {a : NUM} (ha : isFinite a = true) (hpos : 0 < scaled a) :
    sqrt a = pack false (roundQuanta (doubledRoot (quanta a * quantaPerOne)) 2) := by
  have hs : sign a = false := by rw [sign_eq_decide hpos.ne']; simpa using hpos.le
  have hz : isZero a = false := by simpa [scaled_eq_zero_iff] using hpos.ne'
  simp [sqrt, doubledRoot, isNaN_of_isFinite, isInf_of_isFinite, ha, hs, hz]

theorem doubledRoot_div_two_eq (n : ℕ) : doubledRoot n / 2 = isqrt n := by
  unfold doubledRoot; split <;> omega

section Root

variable {n : ℕ} (h : n < 2 ^ 213 * 2 ^ 213)
include h

theorem isqrt_le_sqrt : (isqrt n : ℝ) ≤ √n :=
  Real.le_sqrt_of_sq_le (by rw [sq]; exact_mod_cast (isqrt_spec (by omega)).1)

/-- The real root is at most half the doubled root, rounded up to an integer. -/
theorem sqrt_le_doubledRoot : √n ≤ ((doubledRoot n + 1) / 2 : ℕ) := by
  refine Real.sqrt_le_iff.2 ⟨Nat.cast_nonneg _, ?_⟩
  rw [sq]
  norm_cast
  unfold doubledRoot
  split
  · next hsq => rw [show (2 * isqrt n + 1) / 2 = isqrt n by omega, hsq]
  · rw [show (2 * isqrt n + 1 + 1) / 2 = isqrt n + 1 by omega]; exact (isqrt_spec (by omega)).2.le

/-- Where the significand drops a place, one within half a unit of the doubled root is so of the real root: the two lie on
the same side of every integer. -/
theorem near_sqrt_of_near_doubledRoot {e r : ℕ} (he : e ≠ 0)
    (near : 2 * (r * (2 * 2 ^ e)) ≤ 2 * doubledRoot n + 2 * 2 ^ e
      ∧ 2 * doubledRoot n ≤ 2 * (r * (2 * 2 ^ e)) + 2 * 2 ^ e) :
    2 * |r * (2 ^ e * 1) - √n| ≤ 2 ^ e * 1 := by
  obtain ⟨k, rfl⟩ := Nat.exists_eq_add_one_of_ne_zero he
  have hlow := isqrt_le_sqrt h
  have hhigh := sqrt_le_doubledRoot h
  rw [← doubledRoot_div_two_eq] at hlow
  have hscale : r * (2 * 2 ^ (k + 1)) = 4 * (r * 2 ^ k) := by ring
  have hscale' : (r * (2 ^ (k + 1) * 1) : ℝ) = 2 * (r * 2 ^ k : ℕ) := by push_cast; ring
  rw [hscale, pow_succ'] at near
  rw [hscale', mul_one, pow_succ', mul_le_mul_iff_right₀ two_pos, abs_le]
  generalize r * 2 ^ k = q at *
  have hbelow : 2 * q ≤ doubledRoot n / 2 + 2 ^ k := by omega
  have habove : (doubledRoot n + 1) / 2 ≤ 2 * q + 2 ^ k := by omega
  generalize doubledRoot n / 2 = low at *
  generalize (doubledRoot n + 1) / 2 = high at *
  rify at hbelow habove
  constructor <;> linarith

theorem roundQuanta_doubledRoot_lt : roundQuanta (doubledRoot n) 2 < infBits := by
  have hroot : isqrt n < 2 ^ 213 :=
    lt_of_mul_self_lt_mul_self₀ (Nat.zero_le _) ((isqrt_spec (by omega)).1.trans_lt h)
  rw [roundQuanta_lt_infBits_iff two_pos]
  have := pow_le_overflowQuanta (e := 213) (by omega)
  have := doubledRoot_div_two_eq n
  omega

/-- A rounded root is nearest to the real one. -/
theorem bitQuanta_sqrt_nearest (hmin : 2 ^ 48 < n) {v : ℤ} (hv : IsValue v) :
    |bitQuanta (roundQuanta (doubledRoot n) 2) - √n| ≤ |v - √n| := by
  have hfin := roundQuanta_doubledRoot_lt h
  have hplaces : droppedPlaces (doubledRoot n) 2 ≠ 0 := by
    intro h0
    have hlt := lt_droppedPlaces (num := doubledRoot n) two_pos
    have hle : √n ≤ (2 ^ 24 : ℕ) := (sqrt_le_doubledRoot h).trans (by rw [h0] at hlt; exact_mod_cast (by omega))
    rw [Real.sqrt_le_iff] at hle
    have : n ≤ (2 ^ 24) ^ 2 := by exact_mod_cast hle.2
    omega
  have hnear := roundDiv_near (doubledRoot n) (den := 2 * 2 ^ droppedPlaces (doubledRoot n) 2) (by positivity)
  have hlead := droppedPlaces_lead (num := doubledRoot n) two_pos
  rw [bitQuanta_roundQuanta hfin]
  generalize droppedPlaces (doubledRoot n) 2 = e at *
  generalize roundDiv (doubledRoot n) (2 * 2 ^ e) = r at *
  have hroot : (2 ^ (23 + e) * 1 : ℝ) ≤ √n := by
    refine le_trans ?_ (isqrt_le_sqrt h)
    have := hlead.resolve_left hplaces
    rw [← doubledRoot_div_two_eq, mul_one]
    exact_mod_cast (Nat.le_div_iff_mul_le two_pos).2 this
  have hunit := near_sqrt_of_near_doubledRoot h hplaces hnear
  simpa using (nearest_significand (r := (r : ℤ)) one_pos (by exact_mod_cast hunit) (.inr hroot) (hv e)).1

end Root

/-- The radicand of a finite value in quanta, within the range of the integer root. -/
theorem radicand_lt {a : NUM} (ha : isFinite a = true) : quanta a * quantaPerOne < 2 ^ 213 * 2 ^ 213 := calc
  _ < 2 ^ 24 * 2 ^ 253 * 2 ^ 149 := Nat.mul_lt_mul_of_pos_right (quanta_lt ha) (by positivity)
  _ = 2 ^ 213 * 2 ^ 213 := by ring

/-! ## The obligations of R12 -/

/-- Settles O57: each operation is its exact result rounded once. -/
theorem arithmeticRoundsToNearestEven : Obligations.ArithmeticRoundsToNearestEven := by
  unfold Obligations.ArithmeticRoundsToNearestEven
  intro a b c ha hb _ one va vb vc limit infinity
  refine ⟨?_, ?_, ?_, ?_⟩
  · rintro r rfl
    have h := (add_isRounded ha hb).spec one_ne_zero c
    simp only [NearestEven, abs_one, mul_one] at h
    exact h
  · rintro r rfl
    have h := (sub_isRounded ha hb).spec one_ne_zero c
    simp only [NearestEven, abs_one, mul_one] at h
    exact h
  · rintro r rfl
    have h := (mul_isRounded ha hb).spec quantaPerOne_pos.ne' c
    simp only [NearestEven, Nat.abs_cast, mul_quantaPerOne_neg_iff] at h
    exact h
  · rintro r rfl
    have h (hvb : vb ≠ 0) := (div_isRounded ha hb hvb).spec hvb c
    simp only [NearestEven, abs_mul, Nat.abs_cast, mul_right_comm _ (quantaPerOne : ℤ),
      mul_quantaPerOne_neg_iff] at h
    exact ⟨fun hvb => (h hvb).1, fun hvb => (h hvb).2, div_eq_infinityOf ha hb⟩

/-- Settles O58: the doubled integer root rounds as the real root does. -/
theorem sqrtRoundsToNearest : Obligations.SqrtRoundsToNearest := by
  unfold Obligations.SqrtRoundsToNearest
  intro a c ha hnonneg hc
  rcases hnonneg.eq_or_lt with h0 | hpos
  · have hz : isZero a = true := (scaled_eq_zero_iff a).1 h0.symm
    have hroot : sqrt a = a := by simp [sqrt, isNaN_of_isFinite ha, hz]
    simp [hroot, ha, ← h0]
  · have hval : scaled a = quanta a := by rw [← abs_scaled, abs_of_pos hpos]
    have hn : (scaled a * quantaPerOne : ℝ) = (quanta a * quantaPerOne : ℕ) := by rw [hval]; push_cast; rfl
    have hq : 0 < quanta a := by omega
    have hmin : 2 ^ 48 < quanta a * quantaPerOne := by unfold quantaPerOne; omega
    have hfin := roundQuanta_doubledRoot_lt (radicand_lt ha)
    rw [sqrt_eq_pack ha hpos, hn, scaled_pack hfin]
    exact ⟨isFinite_pack hfin, by simpa [withSign] using bitQuanta_sqrt_nearest (radicand_lt ha) hmin (isValue_scaled c)⟩

end Sys2Proof.F32
end

section
/-! PROOFS. The family 10_state.md: the port (R21, R310), what every command leaves alone, the invariants of R60 with the
lengths of R47 and the ranges of the slots, who writes the flags (R23), the reset state (R61), the register `STATUS` (R41). -/

namespace Sys2Proof.Machine

variable {s t : State} {i : Instr}

/-! ## What can stand on the port (R21, R310) -/

theorem step_of_port_nil (h : s.port = []) : step s = .next (idle s) := by simp [step, fetch_nil s h]

theorem step_of_port_reset {rest : List PortEvent} (h : s.port = .reset :: rest) :
    step s = .next { State.resetWith s.params with port := rest } := by
  simp [step, fetch_cons s h, applyReset]

theorem step_of_port_packet {ws : List Word} {rest : List PortEvent} (h : s.port = .packet ws :: rest) :
    step s = runPacket ws { s with port := rest } := step_of_fetch_packet (fetch_cons s h)

/-- Settles O6, by what `fetch` takes off the port. -/
theorem stepIdlesAndResets : Obligations.StepIdlesAndResets := by
  unfold Obligations.StepIdlesAndResets
  exact ⟨fun _ => step_of_port_nil, fun _ _ => step_of_port_reset⟩

/-! ## The fields that few commands write -/

/-- The two things `WTGEN` can do: keep a valid table, or generate one (44_wavetable.md R192). -/
theorem operation_wtgen_cases (force : Bool) (kind : BitVec 8) (s : State) :
    (s.wtValid = true ∧ operation (.wtgen force kind) s = respondOk 0 s) ∨
    operation (.wtgen force kind) s = respondOk 1 (regenerate (kind.setWidth 32) s) := by
  simp only [operation]
  split
  · next h =>
    simp only [Bool.and_eq_true] at h
    obtain ⟨⟨hv, -⟩, -⟩ := h
    exact .inl ⟨hv, rfl⟩
  · exact .inr rfl

/-- What the Operation of a command other than `INIT` makes of the mode, the flags and the active configuration. -/
structure OperationFrame (i : Instr) (s t : State) : Prop where
  act : t.act = s.act
  mode : t.mode = match i with
    | .xfmFft => .spectrum
    | .xfmIfft => .waveform
    | _ => s.mode
  halt : t.halt = s.halt
  frdy : t.frdy = match i with
    | .wrs _ => s.frdy || frameReady s
    | .xfmFft => false
    | _ => s.frdy
  specDirty : t.specDirty = match i with
    | .setbin a _ _ => specDirtyAfter s a
    | .xfmFft => false
    | _ => s.specDirty
  wtValid : t.wtValid = match i with
    | .wtgen _ _ => true
    | _ => s.wtValid

theorem operation_frame (hi : i ≠ .init) : OperationFrame i s (operation i s) := by
  cases i with
  | init => exact absurd rfl hi
  | wrreg r v => cases r <;> exact ⟨rfl, rfl, rfl, rfl, rfl, rfl⟩
  | setbin a k v => cases a <;> exact ⟨rfl, rfl, rfl, rfl, rfl, rfl⟩
  | wtgen force kind =>
    obtain ⟨hv, e⟩ | e := operation_wtgen_cases force kind s <;> rw [e]
    · exact ⟨rfl, rfl, rfl, rfl, rfl, hv⟩
    · exact ⟨rfl, rfl, rfl, rfl, rfl, rfl⟩
  | _ => exact ⟨rfl, rfl, rfl, rfl, rfl, rfl⟩

/-- No command but `INIT` writes the active configuration (10_state.md R24). -/
theorem exec_act (hi : i ≠ .init) (h : exec i s = .next t) : t.act = s.act := by
  obtain ⟨rfl, -⟩ | ⟨rfl, -⟩ | ⟨-, -, rfl⟩ | ⟨-, -, -, -, rfl⟩ := exec_cases h
  · exact absurd rfl hi
  · exact absurd rfl hi
  · exact (operation_frame hi).act
  · rfl

/-- While `UNCONF` the ready checks give a code that does not halt (60_exceptions.md R288 steps 2 and 3). -/
theorem readyChecks_unconf (hm : s.mode = .unconf) (cs : List (Bool × Status)) :
    ∃ c, firstError (readyChecks s ++ cs) = some c ∧ c.halting = false := by
  cases hh : s.halt with
  | true => exact ⟨.halted, by simp [readyChecks, haltedCheck, hh], rfl⟩
  | false => exact ⟨.notInit, by simp [readyChecks, haltedCheck, hh, hm], rfl⟩

/-- While `UNCONF` a command that needs a configuration gives a code that does not halt. -/
theorem checks_unconf (hm : s.mode = .unconf) (hi : runsUnconfigured i = false) :
    ∃ c, firstError (checks i s) = some c ∧ c.halting = false := by
  have ready := readyChecks_unconf hm
  cases i with
  | nop | init | rdreg | wrreg => cases hi
  | wrs | rdo | peaks | rds => simpa [checks] using ready []
  | ostart | oupd => simpa only [checks, slotChecks, List.append_assoc] using ready _
  | wtgen force kind =>
    rw [checks, firstError_cons]
    split
    · exact ⟨.illegal, rfl, rfl⟩
    · simpa using ready []
  | _ => exact ready _

/-- What executes while `UNCONF`, besides `INIT`: `NOP` and the register commands. -/
theorem runsUnconfigured_of_checks (hm : s.mode = .unconf) (hc : firstError (checks i s) = none) :
    runsUnconfigured i = true := by
  by_contra hi
  obtain ⟨c, h, -⟩ := checks_unconf hm (Bool.eq_false_iff.2 hi)
  cases hc.symm.trans h

/-- No error of an unconfigured block halts it. -/
theorem not_halting_of_unconf (hm : s.mode = .unconf) {c : Status} (hc : firstError (checks i s) = some c) :
    c.halting = false := by
  cases hi : runsUnconfigured i with
  | false =>
    obtain ⟨d, hd, hd'⟩ := checks_unconf hm hi
    cases hc.symm.trans hd
    exact hd'
  | true =>
    have hmem := firstError_mem hc
    cases i with
    | wrreg r v =>
      simp only [checks, haltedCheck, List.mem_cons, Prod.mk.injEq, List.not_mem_nil, or_false] at hmem
      obtain ⟨-, rfl⟩ | ⟨-, rfl⟩ | ⟨-, rfl⟩ := hmem <;> rfl
    | nop | init | rdreg => cases hmem
    | _ => cases hi

/-- No command but `INIT` configures the block or takes its configuration away (42_transform.md R155). -/
theorem exec_mode_unconf_iff (hi : i ≠ .init) (h : exec i s = .next t) : t.mode = .unconf ↔ s.mode = .unconf := by
  obtain ⟨rfl, -⟩ | ⟨rfl, -⟩ | ⟨-, hc, rfl⟩ | ⟨-, -, -, -, rfl⟩ := exec_cases h
  · exact absurd rfl hi
  · exact absurd rfl hi
  · have hmode := (operation_frame (s := s) hi).mode
    split at hmode
    · exact iff_of_false (by simp [hmode]) (ready_of_checks hc)
    · exact iff_of_false (by simp [hmode]) (ready_of_checks hc)
    · rw [hmode]
  · rfl

/-! ## One slot -/

/-- What every command keeps of a slot (10_state.md R60, log entry 16). -/
structure SlotInv (s : State) (o : Osc) : Prop where
  phase : phaseInTable s.num s.act.tabLen o.ph = true
  targets : s.num.isFinite o.tAmp = true ∧ freqLegal s.num (s.act.nyquist s.num) o.tFreq = true
  settled : o.settled s.num = true

theorem ConfiguredInv.slot (h : ConfiguredInv s) {o : Osc} (ho : o ∈ s.osc) : SlotInv s o :=
  ⟨h.phase o ho, h.targets o ho, h.settled o ho⟩

/-- What the Operation of a command can make of one slot: the shared operation it calls, with the operand checks that
have passed (45_oscillator.md R201 to R207, 47_mixer.md R241). -/
inductive SlotStep (s : State) : Instr → Osc → Osc → Prop
  | kept (i : Instr) (o : Osc) : SlotStep s i o o
  | started (j : BitVec 20) {a f : NUM} (p : NUM) (o : Osc) (ha : s.num.isFinite a = true)
      (hf : freqLegal s.num (s.act.nyquist s.num) f = true) :
      SlotStep s (.ostart j a f p) o (o.start s.num s.act.tabLen a f p)
  | stopped (j : BitVec 20) (o : Osc) : SlotStep s (.ostop j) o (o.stop s.num)
  | updated (j : BitVec 20) {a f : NUM} (p : NUM) (n : Word) (o : Osc) (ha : s.num.isFinite a = true)
      (hf : freqLegal s.num (s.act.nyquist s.num) f = true) :
      SlotStep s (.oupd j a f p n) o (o.update s.num a f p n)
  | advanced {i : Instr} (hi : i = .rds ∨ ∃ j, i = .onext j) (o : Osc) :
      SlotStep s i o (o.advance s.num s.act.tabLen s.act.sampleRate)
  | switched (on : Bool) (j : BitVec 20) (o : Osc) : SlotStep s (.oact on j) o { o with active := on }

/-- A slot of a bank with one slot written is an old one or the one written, which then was a slot before. -/
theorem mem_setSlot {j : Nat} {x o : Osc} (h : o ∈ (s.setSlot j x).osc) :
    o ∈ s.osc ∨ (s.slot j ∈ s.osc ∧ o = x) := by
  by_cases hj : j < s.osc.length
  · refine (List.mem_or_eq_of_mem_set h).imp_right fun e => ⟨?_, e⟩
    simp [State.slot, hj]
  · rw [setSlot_osc, List.set_eq_of_length_le (not_lt.1 hj)] at h
    exact .inl h

/-- Every slot an `RDS` leaves is an old one or an old one advanced. -/
theorem mem_mixSlots {o : Osc} (h : o ∈ mixSlots s) :
    o ∈ s.osc ∨ ∃ o' ∈ s.osc, o = o'.advance s.num s.act.tabLen s.act.sampleRate := by
  simp only [mixSlots, advanceActive, List.mem_append, List.mem_map] at h
  rcases h with ⟨o', ho', rfl⟩ | ho
  · have hmem := List.mem_of_mem_take ho'
    split
    · exact .inr ⟨o', hmem, rfl⟩
    · exact .inl hmem
  · exact .inl (List.mem_of_mem_drop ho)

/-- The operand checks of `OSTART` and `OUPD`, passed (45_oscillator.md R201). -/
theorem oscOperandChecks_none {a f p : NUM} : firstError (oscOperandChecks s a f p) = none ↔
    s.num.isFinite a = true ∧ freqLegal s.num (s.act.nyquist s.num) f = true ∧ s.num.isFinite p = true := by
  simp only [firstError_eq_none, oscOperandChecks, List.forall_mem_cons, List.not_mem_nil, false_imp_iff, implies_true,
    and_true, Bool.not_eq_false']

/-- The operand checks have passed where all the checks of `OSTART` or `OUPD` have. -/
theorem operands_of_checks {j : BitVec 20} {a f p : NUM}
    (h : firstError (slotChecks s j ++ oscOperandChecks s a f p) = none) :
    s.num.isFinite a = true ∧ freqLegal s.num (s.act.nyquist s.num) f = true := by
  rw [firstError_append, Option.or_eq_none_iff] at h
  obtain ⟨ha, hf, -⟩ := oscOperandChecks_none.1 h.2
  exact ⟨ha, hf⟩

/-- Each slot after an Operation is one of the slots before it, or what the Operation makes of one. -/
theorem operation_slotStep (hi : i ≠ .init) (hc : firstError (checks i s) = none) {o : Osc}
    (ho : o ∈ (operation i s).osc) : ∃ o' ∈ s.osc, SlotStep s i o' o := by
  have written {j : Nat} {x : Osc} (hx : SlotStep s i (s.slot j) x) (h : o ∈ (s.setSlot j x).osc) :
      ∃ o' ∈ s.osc, SlotStep s i o' o := by
    rcases mem_setSlot h with ho | ⟨hj, rfl⟩
    · exact ⟨o, ho, .kept i o⟩
    · exact ⟨_, hj, hx⟩
  have kept (h : o ∈ s.osc) : ∃ o' ∈ s.osc, SlotStep s i o' o := ⟨o, h, .kept i o⟩
  cases i with
  | init => exact absurd rfl hi
  | ostart j a f p =>
    obtain ⟨ha, hf⟩ := operands_of_checks hc
    exact written (.started j p _ ha hf) ho
  | ostop j => exact written (.stopped j _) ho
  | oupd j a f p n =>
    obtain ⟨ha, hf⟩ := operands_of_checks hc
    exact written (.updated j p n _ ha hf) ho
  | onext j => exact written (.advanced (.inr ⟨j, rfl⟩) _) ho
  | oact on j => exact written (.switched on j _) ho
  | rds =>
    rcases mem_mixSlots ho with ho | ⟨o', ho', rfl⟩
    · exact kept ho
    · exact ⟨o', ho', .advanced (.inl rfl) o'⟩
  | wrreg r v => exact kept (by cases r <;> exact ho)
  | setbin a k v => exact kept (by cases a <;> exact ho)
  | wtgen force kind =>
    obtain ⟨-, e⟩ | e := operation_wtgen_cases force kind s <;> rw [e] at ho <;> exact kept ho
  | _ => exact kept ho

/-- A slot with a glide in progress is bound by nothing until the glide lands. -/
theorem Osc.settled_of_steps {N : NumType} {o : Osc} (h : o.stepsLeft ≠ 0) : o.settled N = true := by
  rw [Osc.settled, Bool.or_eq_true]
  exact .inl (bne_iff_ne.2 h)

/-- Everything one call of `Next` does to a slot besides its phase: nothing without a glide, the targets at the last step,
one addition of each step before it (45_oscillator.md R206). -/
theorem Osc.advance_cases (N : NumType) (t : Nat) (fs : NUM) (o : Osc) :
    (o.stepsLeft = 0 ∧ o.advance N t fs = { o with ph := o.nextPhase N t fs }) ∨
    (o.stepsLeft = 1 ∧ o.advance N t fs =
      { o with ph := o.nextPhase N t fs, stepsLeft := 0, amp := o.tAmp, freq := o.tFreq }) ∨
    (2 ≤ o.stepsLeft.toNat ∧ o.advance N t fs =
      { o with
        ph := o.nextPhase N t fs
        stepsLeft := o.stepsLeft - 1
        amp := N.add o.amp o.ampStep
        freq := N.add o.freq o.freqStep }) := by
  by_cases h0 : o.stepsLeft = 0
  · exact .inl ⟨h0, by simp only [Osc.advance, Osc.glide, h0, if_true]⟩
  · by_cases h1 : o.stepsLeft = 1
    · exact .inr (.inl ⟨h1, by simp only [Osc.advance, Osc.glide, if_neg h0, if_pos h1]⟩)
    · exact .inr (.inr ⟨by bv_omega, by simp only [Osc.advance, Osc.glide, if_neg h0, if_neg h1]⟩)

/-- A table size within the bounds of legal parameters is a position 20 index bits reach. -/
theorem GeometryLegal.tabLen_bounds (g : GeometryLegal s.params s.act) (hp : s.params.Legal) :
    1 ≤ s.act.tabLen ∧ s.act.tabLen ≤ 2 ^ 20 := by
  have := g.tabMin; have := g.tabMax; have := hp.tsIndex
  omega

/-- What one slot keeps, kept: only `start` and `Next` write the phase, under its guard; the targets have passed the
operand checks; and a slot left without a glide has just been set to its targets or silenced. -/
theorem SlotStep.inv {o o' : Osc} (hs : SlotStep s i o o') (hp : s.params.Legal) (g : GeometryLegal s.params s.act)
    (h : SlotInv s o) : SlotInv s o' := by
  obtain ⟨ht, ht'⟩ := g.tabLen_bounds hp
  have guard := phaseInTable_guard hp.num ht ht'
  cases hs with
  | kept => exact h
  | started j p _ ha hf => exact ⟨guard _, ⟨ha, hf⟩, by simp [Osc.settled, Osc.start]⟩
  | stopped => exact ⟨h.phase, ⟨hp.num.zero_finite, h.targets.2⟩, by simp [Osc.settled, Osc.stop]⟩
  | updated j p n _ ha hf =>
    unfold Osc.update
    split
    · exact ⟨h.phase, ⟨ha, hf⟩, by simp [Osc.settled]⟩
    · next hn => exact ⟨h.phase, ⟨ha, hf⟩, Osc.settled_of_steps hn⟩
  | advanced =>
    obtain ⟨-, e⟩ | ⟨-, e⟩ | ⟨h2, e⟩ := o.advance_cases s.num s.act.tabLen s.act.sampleRate <;> rw [e]
    · exact ⟨guard _, h.targets, h.settled⟩
    · exact ⟨guard _, h.targets, by simp [Osc.settled]⟩
    · exact ⟨guard _, h.targets, Osc.settled_of_steps (by bv_omega)⟩
  | switched => exact ⟨h.phase, h.targets, h.settled⟩

/-! ## The peak list fits its capacity (46_peak_detector.md R222) -/

/-- Candidates are at least four bins apart: each rises over the two bins before it and falls over the two after. -/
theorem candidate_spacing {N : NumType} (hN : N.Lawful) {mag mthr : List NUM} {i l : Nat} (h : i < l)
    (hi : candidate N mag mthr i = true) (hl : candidate N mag mthr l = true) : i + 4 ≤ l := by
  simp only [candidate, NumType.gt, Bool.and_eq_true] at hi hl
  obtain ⟨⟨-, hfall₁⟩, hfall₂⟩ := hi
  obtain ⟨⟨⟨⟨-, hrise₂⟩, hrise₁⟩, -⟩, -⟩ := hl
  by_contra hlt
  obtain rfl | rfl | rfl : l = i + 1 ∨ l = i + 2 ∨ l = i + 3 := by omega
  · exact Bool.false_ne_true ((hN.lt_asymm hfall₁).symm.trans hrise₁)
  · exact Bool.false_ne_true ((hN.lt_asymm hfall₂).symm.trans hrise₁)
  · exact Bool.false_ne_true ((hN.lt_asymm hfall₂).symm.trans hrise₂)

/-- Numbers below `n` that are four apart: no two share a quotient by 4. -/
theorem count_le_of_spacing {p : Nat → Prop} [DecidablePred p] (hp : ∀ i l, i < l → p i → p l → i + 4 ≤ l) (n : Nat) :
    Nat.count p n ≤ (n + 3) / 4 := by
  rw [Nat.count_eq_card_filter_range, ← Finset.card_range ((n + 3) / 4)]
  refine Finset.card_le_card_of_injOn (· / 4) (fun i hi => ?_) fun i hi l hl e => ?_
  · simp only [Finset.coe_filter, Finset.mem_range, Set.mem_ofPred_eq] at hi
    simp only [Finset.coe_range, Set.mem_Iio]
    omega
  · simp only [Finset.coe_filter, Finset.mem_range, Set.mem_ofPred_eq] at hi hl e
    rcases Nat.lt_trichotomy i l with h | h | h
    · have := hp i l h hi.2 hl.2; omega
    · exact h
    · have := hp l i h hl.2 hi.2; omega

theorem findPeaks_length_le (hN : s.num.Lawful) : (findPeaks s).length ≤ s.act.pkCap := by
  have found {i : Nat} (h : (peakAt s i).isSome = true) : candidate s.num s.mag s.mthr i = true := by
    simp only [peakAt] at h
    split at h
    · next hk =>
      simp only [Bool.and_eq_true] at hk
      obtain ⟨⟨hcand, -⟩, -⟩ := hk
      exact hcand
    · cases h
  have spaced := count_le_of_spacing (p := fun k => (peakAt s (k + 2)).isSome = true)
    (fun i l h hi hl => by have := candidate_spacing hN (Nat.add_lt_add_right h 2) (found hi) (found hl); omega)
    (s.act.numBins - 4)
  have hlen : (findPeaks s).length = Nat.count (fun k => (peakAt s (k + 2)).isSome = true) (s.act.numBins - 4) := by
    rw [findPeaks, List.length_filterMap_eq_countP, scanBins, List.countP_map, Nat.count]
    simp [Function.comp_def]
  rw [hlen, Active.pkCap]
  split <;> omega

/-! ## The invariant, operation by operation -/

theorem UnconfInv.respondOk (h : UnconfInv s) (res : Word) : UnconfInv (respondOk res s) :=
  { h with void := h.void.respondOk res }

theorem UnconfInv.raiseError (h : UnconfInv s) {c : Status} (hc : c.halting = false) : UnconfInv (raiseError c s) :=
  { h with void := h.void.raiseError c, halt := by rw [raiseError_halt, h.halt, hc]; rfl }

theorem UnconfInv.discard (s : State) : UnconfInv (discard s) :=
  ⟨.discard s, rfl, rfl, rfl, rfl, rfl, rfl, rfl⟩

theorem UnconfInv.resetWith (p : Params) : UnconfInv (State.resetWith p) := by
  constructor
  case void => constructor <;> rfl
  case norm => exact ⟨rfl, rfl, rfl⟩
  all_goals rfl

namespace ConfiguredInv

theorem size_pos (h : ConfiguredInv s) : 0 < s.act.size := by have := h.geometry.sizeMin; omega

theorem respondOk (h : ConfiguredInv s) (res : Word) : ConfiguredInv (respondOk res s) :=
  { h with fits := h.fits.respondOk res }

theorem raiseError (h : ConfiguredInv s) (c : Status) : ConfiguredInv (raiseError c s) :=
  { h with fits := h.fits.raiseError c }

theorem writeReg (h : ConfiguredInv s) (v : Word) (r : Reg) : ConfiguredInv (writeReg s v r) := by
  cases r <;> exact { h with fits := { h.fits with } }

theorem pushSample (h : ConfiguredInv s) (x : NUM) : ConfiguredInv (pushSample x s) :=
  { h with
    fits := h.fits.pushSample x
    inW := by rw [pushSample_inRing, Ring.write_w, h.fits.inBuf]; exact mask_lt h.size_pos }

theorem popOut (h : ConfiguredInv s) : ConfiguredInv { s with outRing := s.outRing.pop } :=
  { h with
    fits := h.fits.popOut
    outR := by rw [Ring.pop_r, h.fits.outBuf]; exact mask_lt h.size_pos }

/-- The transform leaves the mode `SPECTRUM` and the appetite `H` together. -/
theorem forwardTransform (h : ConfiguredInv s) : ConfiguredInv (forwardTransform s) :=
  { h with
    fits := h.fits.forwardTransform
    inW := by simpa [Machine.forwardTransform, Machine.withMax, afterFrame] using h.inW
    inR := mask_lt h.size_pos
    appetite := .inr rfl
    spectrum := fun _ => rfl }

theorem inverseTransform (h : ConfiguredInv s) : ConfiguredInv (inverseTransform s) :=
  { h with
    fits := h.fits.inverseTransform
    outW := by
      have hw := h.outW
      have hpow := h.geometry.sizePow2
      rw [← h.fits.outBuf] at hw hpow
      rw [inverseTransform_outRing, Ring.writeMany_w hpow hw, h.fits.outBuf]
      exact Nat.mod_lt _ h.size_pos
    outR := by rw [inverseTransform_outRing, Ring.writeMany_r]; exact h.outR
    spectrum := nofun }

theorem storeBin (h : ConfiguredInv s) (i : Nat) (v : NUM) (a : BinArray) : ConfiguredInv (storeBin a i v s) := by
  have hfits := h.fits.storeBin i v a
  cases a <;> exact { h with fits := hfits }

theorem regenerate (h : ConfiguredInv s) (k : Word) : ConfiguredInv (regenerate k s) :=
  { h with
    fits := h.fits.regenerate k
    table := rfl
    guardPoint := readAt_waveTable_guard (by have := h.geometry.tabMin; omega) }

theorem peaksFound (h : ConfiguredInv s) (hN : s.num.Lawful) : ConfiguredInv { s with pk := findPeaks s } :=
  { h with
    fits := { h.fits with }
    peaks := findPeaks_length_le hN }

/-- Whatever is done to the slots keeps the invariant where it keeps their number and what each slot keeps. -/
theorem withSlots (h : ConfiguredInv s) {os : List Osc} (hlen : os.length = s.act.slots)
    (hos : ∀ o ∈ os, SlotInv s o) : ConfiguredInv { s with osc := os } :=
  { h with
    fits := { h.fits with osc := hlen }
    phase := fun o ho => (hos o ho).phase
    targets := fun o ho => (hos o ho).targets
    settled := fun o ho => (hos o ho).settled }

end ConfiguredInv

/-! ## What `INIT` establishes -/

/-- A configuration that passes `ConfigLegal()` has a legal geometry (40_config_registers.md R123). -/
theorem geometryLegal_latch {p : Params} {g : Staged} (h : configLegal p g = true) : GeometryLegal p (latch g) := by
  simp only [configLegal, finitePositive, Bool.and_eq_true, decide_eq_true_eq] at h
  obtain ⟨⟨⟨⟨⟨⟨⟨⟨⟨⟨⟨-, ⟨hpow, hmin⟩, hmax⟩, ⟨hhop, -⟩, hhop'⟩, hrate⟩, -⟩, -⟩, htab, htab'⟩, htrk, htrk'⟩, -⟩, -⟩, -⟩, -⟩ := h
  exact ⟨hpow, hmin, hmax, hhop, hhop', htab, htab', htrk, htrk', hrate⟩

/-- The Nyquist frequency of a legal geometry is not negative. -/
theorem GeometryLegal.zero_le_nyquist {p : Params} {a : Active} (g : GeometryLegal p a) (hp : p.Legal) :
    p.num.ops.le p.num.ops.zero (a.nyquist p.num.ops) = true :=
  hp.num.half_nonneg _ g.rate.1 g.rate.2

/-- `+0` is a legal frequency of a legal geometry. -/
theorem freqLegal_zero (g : GeometryLegal s.params s.act) (hp : s.params.Legal) :
    freqLegal s.num (s.act.nyquist s.num) s.num.zero = true := by
  rw [freqLegal, Bool.and_eq_true, Bool.and_eq_true]
  exact ⟨⟨hp.num.zero_finite, hp.num.zero_le_zero⟩, g.zero_le_nyquist hp⟩

/-- A slot of zeros is what every command keeps it to be. -/
theorem slotInv_zero (g : GeometryLegal s.params s.act) (hp : s.params.Legal) : SlotInv s (Osc.zero s.num) :=
  ⟨phaseInTable_zero hp.num (g.tabLen_bounds hp).1 (g.tabLen_bounds hp).2,
    ⟨hp.num.zero_finite, freqLegal_zero g hp⟩, by simp [Osc.settled, Osc.zero]⟩

theorem ConfiguredInv.establish {a : Active} (g : GeometryLegal s.params a) (hp : s.params.Legal) :
    ConfiguredInv (establish a s) := by
  have hpos : 0 < a.size := by have := g.sizeMin; omega
  have slots {o : Osc} (ho : o ∈ List.replicate a.slots (Osc.zero s.num)) : SlotInv (Machine.establish a s) o :=
    List.eq_of_mem_replicate ho ▸ slotInv_zero (s := Machine.establish a s) g hp
  exact {
    geometry := g
    fits := .establish a s
    inW := hpos, inR := hpos, outW := hpos, outR := hpos
    appetite := .inl rfl
    spectrum := nofun
    peaks := Nat.zero_le _
    table := rfl
    guardPoint := readAt_waveTable_guard (by have := g.tabMin; omega)
    phase := fun _ ho => (slots ho).phase
    targets := fun _ ho => (slots ho).targets
    settled := fun _ ho => (slots ho).settled }

/-! ## Every step keeps the invariant -/

theorem Inv.wf (h : Inv s) : Memory.wf s = true := by
  by_cases hm : s.mode = .unconf
  · exact (Memory.wf_unconf hm).2 (h.unconf hm).void
  · exact (Memory.wf_configured hm).2 (h.configured hm).fits

theorem Inv.of_unconf (hp : s.params.Legal) (hm : s.mode = .unconf) (h : UnconfInv s) : Inv s :=
  ⟨hp, fun _ => h, fun hm' => absurd hm hm'⟩

theorem Inv.of_configured (hp : s.params.Legal) (hm : s.mode ≠ .unconf) (h : ConfiguredInv s) : Inv s :=
  ⟨hp, fun hm' => absurd hm' hm, fun _ => h⟩

/-- The invariant does not speak of the command port. -/
theorem Inv.withPort (h : Inv s) (events : List PortEvent) (r : Option Response) :
    Inv { s with port := events, response := r } where
  params := h.params
  unconf hm := { h.unconf hm with void := { (h.unconf hm).void with } }
  configured hm := { h.configured hm with fits := { (h.configured hm).fits with } }

/-- An error keeps the invariant, provided it does not halt an unconfigured block. -/
theorem Inv.raiseError (h : Inv s) {c : Status} (hc : s.mode = .unconf → c.halting = false) :
    Inv (raiseError c s) where
  params := h.params
  unconf hm := (h.unconf hm).raiseError (hc hm)
  configured hm := (h.configured hm).raiseError c

theorem Inv.resetWith {p : Params} (hp : p.Legal) : Inv (State.resetWith p) := .of_unconf hp rfl (.resetWith p)

/-- `INIT` re-establishes the invariant, whatever was before it. -/
theorem inv_init (hp : s.params.Legal) (h : exec .init s = .next t) : Inv t := by
  cases hc : configLegal s.params s.staged with
  | true =>
    rw [exec_init_legal hc] at h
    cases h
    exact .of_configured hp nofun ((ConfiguredInv.establish (s := discard s) (geometryLegal_latch hc) hp).respondOk 0)
  | false =>
    rw [exec_init_illegal hc] at h
    cases h
    exact .of_unconf hp rfl ((UnconfInv.discard s).raiseError rfl)

/-- An Operation while `UNCONF` is one of `NOP` and the register commands: none touches what is void. -/
theorem UnconfInv.operation (h : UnconfInv s) (hi : i ≠ .init) (hrun : runsUnconfigured i = true) :
    UnconfInv (operation i s) := by
  cases i with
  | nop | rdreg => exact h.respondOk _
  | wrreg r v => cases r <;> exact { h with void := { h.void with } }
  | init => exact absurd rfl hi
  | _ => cases hrun

/-- An Operation in a configured block. -/
theorem ConfiguredInv.operation (h : ConfiguredInv s) (hp : s.params.Legal) (hi : i ≠ .init)
    (hc : firstError (checks i s) = none) : ConfiguredInv (operation i s) := by
  have slots : ∀ o ∈ (Machine.operation i s).osc, SlotInv s o := fun o ho => by
    obtain ⟨o', ho', hs⟩ := operation_slotStep hi hc ho
    exact hs.inv hp h.geometry (h.slot ho')
  have setLength {j : Nat} {o : Osc} : (s.osc.set j o).length = s.act.slots := by simpa using h.fits.osc
  cases i with
  | init => exact absurd rfl hi
  | wrreg r v => exact (h.writeReg v r).respondOk _
  | wrs x => exact (h.pushSample x).respondOk _
  | rdo => exact h.popOut.respondOk _
  | xfmFft => exact h.forwardTransform.respondOk _
  | xfmIfft => exact h.inverseTransform.respondOk _
  | setbin a k v => exact (h.storeBin _ v a).respondOk _
  | wtgen force kind =>
    obtain ⟨-, e⟩ | e := operation_wtgen_cases force kind s <;> rw [e]
    · exact h.respondOk _
    · exact (h.regenerate _).respondOk _
  | peaks => exact (h.peaksFound hp.num).respondOk _
  | ostart | ostop | oupd | onext | oact => exact (h.withSlots setLength slots).respondOk _
  | rds => exact (h.withSlots (mixSlots_length h.fits.osc) slots).respondOk _
  | nop | rdreg | getbin | getwt | getosc | getpk => exact h.respondOk _

/-- Every command keeps the invariant. -/
theorem Inv.exec (h : Inv s) (hx : exec i s = .next t) : Inv t := by
  have hp : t.params.Legal := exec_params hx ▸ h.params
  obtain ⟨rfl, -⟩ | ⟨rfl, -⟩ | ⟨hi, hc, rfl⟩ | ⟨-, c, hc, -, rfl⟩ := exec_cases hx
  · exact inv_init h.params hx
  · exact inv_init h.params hx
  · have hmode := exec_mode_unconf_iff hi hx
    by_cases hm : s.mode = .unconf
    · exact .of_unconf hp (hmode.2 hm) ((h.unconf hm).operation hi (runsUnconfigured_of_checks hm hc))
    · exact .of_configured hp (hmode.not.2 hm) ((h.configured hm).operation h.params hi hc)
  · exact h.raiseError fun hm => not_halting_of_unconf hm hc

/-- Every packet keeps the invariant, a command's or an illegal one. -/
theorem Inv.runPacket (h : Inv s) {ws : List Word} (hx : runPacket ws s = .next t) : Inv t ∧ t.params = s.params := by
  unfold Machine.runPacket at hx
  split at hx
  · exact ⟨h.exec hx, exec_params hx⟩
  · cases hx
    exact ⟨h.raiseError fun _ => rfl, rfl⟩

/-- Settles O15, by the three things that can stand on the port. -/
theorem invariantStep : Obligations.InvariantStep := by
  unfold Obligations.InvariantStep
  intro s h
  match hport : s.port with
  | [] => exact ⟨idle s, step_of_port_nil hport, h.withPort s.port none, rfl⟩
  | .reset :: rest => exact ⟨_, step_of_port_reset hport, (Inv.resetWith h.params).withPort rest none, rfl⟩
  | .packet ws :: rest =>
    obtain ⟨t, ht⟩ := step_next s
    have hinv : Inv { s with port := rest } := h.withPort rest s.response
    exact ⟨t, ht, hinv.runPacket ((step_of_port_packet hport).symm.trans ht)⟩

/-- Settles O14: the reset state is unconfigured and everything in it void. -/
theorem invariantAtReset : Obligations.InvariantAtReset := by
  unfold Obligations.InvariantAtReset
  exact ⟨fun _ => .resetWith, .resetWith Params.default_legal⟩

/-- Settles O17: the lengths are those the mode and the active configuration ask for, before and after, and only `INIT`
changes these two. -/
theorem noAllocationOutsideInit : Obligations.NoAllocationOutsideInit := by
  unfold Obligations.NoAllocationOutsideInit
  intro i s t h hi hx
  have hact := exec_act hi hx
  have hmode := exec_mode_unconf_iff hi hx
  have hwf := Memory.wf_exec h.wf hx
  by_cases hm : s.mode = .unconf
  · have vs := (h.unconf hm).void
    have vt := (Memory.wf_unconf (hmode.2 hm)).1 hwf
    simp only [vs.inRing, vs.outRing, vs.win, vs.specRe, vs.specIm, vs.amp, vs.mag, vs.phs, vs.frq, vs.mthr, vs.pthr,
      vs.wt, vs.osc, vt.inRing, vt.outRing, vt.win, vt.specRe, vt.specIm, vt.amp, vt.mag, vt.phs, vt.frq, vt.mthr,
      vt.pthr, vt.wt, vt.osc, hact, and_self]
  · have fs := (h.configured hm).fits
    have ft := Memory.fits hwf (hmode.not.2 hm)
    simp only [fs.inBuf, fs.outBuf, fs.win, fs.specRe, fs.specIm, fs.amp, fs.mag, fs.phs, fs.frq, fs.mthr, fs.pthr,
      fs.wt, fs.osc, ft.inBuf, ft.outBuf, ft.win, ft.specRe, ft.specIm, ft.amp, ft.mag, ft.phs, ft.frq, ft.mthr,
      ft.pthr, ft.wt, ft.osc, hact, and_self]

/-! ## The ranges of the slots (R60, R209; log entry 16) -/

theorem Osc.inRange_iff {N : NumType} {nyquist : NUM} {o : Osc} : o.inRange N nyquist = true ↔
    N.isFinite o.amp = true ∧ freqLegal N nyquist o.freq = true ∧
    N.isFinite o.tAmp = true ∧ freqLegal N nyquist o.tFreq = true := by
  simp only [Osc.inRange, Bool.and_eq_true, and_assoc]

theorem freqLegal_iff {N : NumType} {nyquist f : NUM} : freqLegal N nyquist f = true ↔
    N.isFinite f = true ∧ N.le N.zero f = true ∧ N.le f nyquist = true := by
  simp only [freqLegal, Bool.and_eq_true, and_assoc]

/-- An intermediate glide step of the slot, taken by `Next`, stays in the ranges. -/
def GlideInRange (s : State) (o : Osc) : Prop :=
  2 ≤ o.stepsLeft.toNat →
    s.num.isFinite (s.num.add o.amp o.ampStep) = true ∧
    freqLegal s.num (s.act.nyquist s.num) (s.num.add o.freq o.freqStep) = true

/-- The ranges of one slot, kept: its values are old ones, targets, operands that were checked, or `+0`, except after an
intermediate glide step. -/
theorem SlotStep.inRange {o o' : Osc} (hs : SlotStep s i o o') (hN : s.num.Lawful)
    (hglide : (i = .rds ∨ ∃ j, i = .onext j) → GlideInRange s o)
    (h : o.inRange s.num (s.act.nyquist s.num) = true) : o'.inRange s.num (s.act.nyquist s.num) = true := by
  rw [Osc.inRange_iff] at h ⊢
  obtain ⟨hamp, hfreq, htAmp, htFreq⟩ := h
  cases hs with
  | kept | switched => exact ⟨hamp, hfreq, htAmp, htFreq⟩
  | started j p _ ha hf => exact ⟨ha, hf, ha, hf⟩
  | stopped => exact ⟨hN.zero_finite, hfreq, hN.zero_finite, htFreq⟩
  | updated j p n _ ha hf =>
    unfold Osc.update
    split
    · exact ⟨ha, hf, ha, hf⟩
    · exact ⟨hamp, hfreq, ha, hf⟩
  | advanced hi =>
    obtain ⟨-, e⟩ | ⟨-, e⟩ | ⟨h2, e⟩ := o.advance_cases s.num s.act.tabLen s.act.sampleRate <;> rw [e]
    · exact ⟨hamp, hfreq, htAmp, htFreq⟩
    · exact ⟨htAmp, htFreq, htAmp, htFreq⟩
    · exact ⟨(hglide hi h2).1, (hglide hi h2).2, htAmp, htFreq⟩

/-- No slot gets an intermediate glide step but from an `OUPD` of two or more steps. -/
theorem SlotStep.stepsLeft_lt_two {o o' : Osc} (hs : SlotStep s i o o')
    (hn : ∀ j a f p n, i = .oupd j a f p n → n.toNat < 2) (h : o.stepsLeft.toNat < 2) : o'.stepsLeft.toNat < 2 := by
  cases hs with
  | kept | switched => exact h
  | started | stopped => exact Nat.zero_lt_two
  | updated j p n _ ha hf =>
    unfold Osc.update
    split
    · exact Nat.zero_lt_two
    · exact hn _ _ _ _ _ rfl
  | advanced =>
    obtain ⟨-, e⟩ | ⟨-, e⟩ | ⟨h2, -⟩ := o.advance_cases s.num s.act.tabLen s.act.sampleRate
    · rw [e]; exact h
    · rw [e]; exact Nat.zero_lt_two
    · exact absurd h2 (not_le.2 h)

/-- Every slot after `INIT` is a slot of zeros. -/
theorem slot_of_init (hx : exec .init s = .next t) {o : Osc} (ho : o ∈ t.osc) : o = Osc.zero t.num := by
  obtain ⟨-, -, rfl⟩ | ⟨-, -, rfl⟩ | ⟨hi, -⟩ | ⟨hi, -⟩ := exec_cases hx
  · exact List.eq_of_mem_replicate ho
  · cases ho
  · exact absurd rfl hi
  · exact absurd rfl hi

/-- Slots exist in a configured block only. -/
theorem Inv.configured_of_slot (h : Inv s) {o : Osc} (ho : o ∈ s.osc) : ConfiguredInv s :=
  h.configured fun hm => by rw [(h.unconf hm).void.osc] at ho; cases ho

/-- Each slot after a command other than `INIT` is one of the slots before it, or what the command makes of one. -/
theorem exec_slotStep (hi : i ≠ .init) (hx : exec i s = .next t) {o : Osc} (ho : o ∈ t.osc) :
    ∃ o' ∈ s.osc, SlotStep s i o' o := by
  obtain ⟨rfl, -⟩ | ⟨rfl, -⟩ | ⟨-, hc, rfl⟩ | ⟨-, c, -, -, rfl⟩ := exec_cases hx
  · exact absurd rfl hi
  · exact absurd rfl hi
  · exact operation_slotStep hi hc ho
  · exact ⟨o, ho, .kept i o⟩

/-- Every command keeps R60 in full where no slot that it advances leaves the ranges, and `INIT` establishes it. -/
theorem fullInv_exec (h : Inv s) (hx : exec i s = .next t) (hr : i = .init ∨ SlotsInRange s)
    (hglide : (i = .rds ∨ ∃ j, i = .onext j) → ∀ o ∈ s.osc, GlideInRange s o) : FullInv t := by
  refine ⟨h.exec hx, fun o ho => ?_⟩
  by_cases hi : i = .init
  · subst hi
    have zero := freqLegal_zero ((h.exec hx).configured_of_slot ho).geometry (h.exec hx).params
    have finite := (h.exec hx).params.num.zero_finite
    rw [slot_of_init hx ho, Osc.inRange_iff]
    exact ⟨finite, zero, finite, zero⟩
  · obtain ⟨o', ho', hs⟩ := exec_slotStep hi hx ho
    rw [exec_num hx, exec_act hi hx]
    exact hs.inRange h.params.num (fun hn => hglide hn o' ho') (hr.resolve_left hi o' ho')

/-- No slot has an intermediate glide step left after a command that starts none. -/
theorem stepsLeft_lt_two_exec (hx : exec i s = .next t) (hsteps : ∀ o ∈ s.osc, o.stepsLeft.toNat < 2)
    (hn : ∀ j a f p n, i = .oupd j a f p n → n.toNat < 2) : ∀ o ∈ t.osc, o.stepsLeft.toNat < 2 := by
  intro o ho
  by_cases hi : i = .init
  · subst hi
    rw [slot_of_init hx ho]
    exact Nat.zero_lt_two
  · obtain ⟨o', ho', hs⟩ := exec_slotStep hi hx ho
    exact hs.stepsLeft_lt_two hn (hsteps o' ho')

/-- In real arithmetic a glide runs along the segment between its ends (45_oscillator.md R209). -/
theorem glide_mem_Icc {f0 f1 nyquist : ℝ} {n k : ℕ} (h0 : f0 ∈ Set.Icc 0 nyquist) (h1 : f1 ∈ Set.Icc 0 nyquist)
    (hn : 1 ≤ n) (hk : k ≤ n) : f0 + k * ((f1 - f0) / n) ∈ Set.Icc 0 nyquist := by
  have hn' : (0 : ℝ) < n := by exact_mod_cast hn
  have hc : (k : ℝ) / n ≤ 1 := (div_le_one hn').2 (by exact_mod_cast hk)
  have segment : f0 + k * ((f1 - f0) / n) = (1 - k / n : ℝ) • f0 + (k / n : ℝ) • f1 := by
    simp only [smul_eq_mul]; ring
  rw [segment]
  exact convex_Icc 0 nyquist h0 h1 (sub_nonneg.2 hc) (by positivity) (sub_add_cancel 1 _)

/-- Settles O59: slot by slot (`SlotStep.inRange`, `SlotStep.stepsLeft_lt_two`), and the segment of a glide. -/
theorem slotRangesKept : Obligations.SlotRangesKept := by
  unfold Obligations.SlotRangesKept
  refine ⟨fun p => ⟨nofun, fun hp => ⟨.resetWith hp, nofun⟩⟩, fun i s t h hx hr hglide => ?_,
    fun i s t h hx hr hsteps hn => ⟨?_, stepsLeft_lt_two_exec hx hsteps hn⟩,
    fun f0 f1 nyquist n k h0 h0' h1 h1' => glide_mem_Icc ⟨h0, h0'⟩ ⟨h1, h1'⟩⟩
  · have full := fullInv_exec h hx hr hglide
    refine ⟨full, fun o ho => ?_⟩
    have ranges := full.slots o ho
    rw [exec_num hx, Osc.inRange_iff, freqLegal_iff, freqLegal_iff] at ranges
    obtain ⟨hamp, hfreq, htAmp, htFreq⟩ := ranges
    exact ⟨hamp, htAmp, hfreq, htFreq⟩
  · exact fullInv_exec h hx (.inr hr) fun _ o ho h2 => absurd h2 (not_le.2 (hsteps o ho))

/-! ## Who writes the flags (R23) -/

/-- Everything a command can do to `FRDY`. -/
theorem exec_frdy_cases (h : exec i s = .next t) :
    t.frdy = s.frdy ∨ ((i = .xfmFft ∨ i = .init) ∧ t.frdy = false) ∨
    ((∃ x, i = .wrs x) ∧ t.frdy = (s.frdy || t.count == t.appetite)) := by
  obtain ⟨rfl, -, rfl⟩ | ⟨rfl, -, rfl⟩ | ⟨hi, -, rfl⟩ | ⟨-, c, -, -, rfl⟩ := exec_cases h
  · exact .inr (.inl ⟨.inr rfl, rfl⟩)
  · exact .inr (.inl ⟨.inr rfl, rfl⟩)
  · have hf := (operation_frame (s := s) hi).frdy
    split at hf
    · exact .inr (.inr ⟨⟨_, rfl⟩, hf⟩)
    · exact .inr (.inl ⟨.inl rfl, hf⟩)
    · exact .inl hf
  · exact .inl rfl

/-- Everything a command can do to `SPECDIRTY`. -/
theorem exec_specDirty_cases (h : exec i s = .next t) :
    t.specDirty = s.specDirty ∨ ((i = .xfmFft ∨ i = .init) ∧ t.specDirty = false) ∨
    ∃ a k v, i = .setbin a k v ∧ responseCode t = some 0 ∧ t.specDirty = specDirtyAfter s a := by
  obtain ⟨rfl, -, rfl⟩ | ⟨rfl, -, rfl⟩ | ⟨hi, -, rfl⟩ | ⟨-, c, -, -, rfl⟩ := exec_cases h
  · exact .inr (.inl ⟨.inr rfl, rfl⟩)
  · exact .inr (.inl ⟨.inr rfl, rfl⟩)
  · have hd := (operation_frame (s := s) hi).specDirty
    split at hd
    · exact .inr (.inr ⟨_, _, _, rfl, rfl, hd⟩)
    · exact .inr (.inl ⟨.inl rfl, hd⟩)
    · exact .inl hd
  · exact .inl rfl

/-- Everything a command can do to `WTVALID`. -/
theorem exec_wtValid_cases (h : exec i s = .next t) :
    t.wtValid = s.wtValid ∨ i = .init ∨ ((∃ force kind, i = .wtgen force kind) ∧ t.wtValid = true) := by
  obtain ⟨rfl, -⟩ | ⟨rfl, -⟩ | ⟨hi, -, rfl⟩ | ⟨-, c, -, -, rfl⟩ := exec_cases h
  · exact .inr (.inl rfl)
  · exact .inr (.inl rfl)
  · have hv := (operation_frame (s := s) hi).wtValid
    split at hv
    · exact .inr (.inr ⟨⟨_, _, rfl⟩, hv⟩)
    · exact .inl hv
  · exact .inl rfl

/-- Everything a command can do to `HALT`. -/
theorem exec_halt_cases (h : exec i s = .next t) :
    t.halt = s.halt ∨ (i = .init ∧ t.halt = false) ∨
    ∃ c : Status, t.halt = (s.halt || c.halting) ∧ responseCode t = some c.code := by
  obtain ⟨rfl, -, rfl⟩ | ⟨rfl, -, rfl⟩ | ⟨hi, -, rfl⟩ | ⟨-, c, -, -, rfl⟩ := exec_cases h
  · exact .inr (.inl ⟨rfl, rfl⟩)
  · exact .inr (.inl ⟨rfl, rfl⟩)
  · exact .inl (operation_frame hi).halt
  · exact .inr (.inr ⟨c, rfl, rfl⟩)

/-- A command answers `OK` exactly where its Operation has run. -/
theorem operation_of_ok (hi : i ≠ .init) (h : exec i s = .next t) (hok : responseCode t = some 0) :
    t = operation i s := by
  obtain ⟨rfl, -⟩ | ⟨rfl, -⟩ | ⟨-, -, e⟩ | ⟨-, c, -, hc, rfl⟩ := exec_cases h
  · exact absurd rfl hi
  · exact absurd rfl hi
  · exact e
  · exact absurd (raiseError_code_ne_zero.1 (Option.some.inj hok)) hc

theorem dirties_iff {a : BinArray} : dirties a = true ↔ a = .amp ∨ a = .mag ∨ a = .phs := by
  cases a <;> simp [dirties]

theorem specDirtyAfter_iff {a : BinArray} : specDirtyAfter s a = true ↔
    s.specDirty = true ∨ (s.mode = .spectrum ∧ (a = .amp ∨ a = .mag ∨ a = .phs)) := by
  rw [specDirtyAfter, Bool.or_eq_true, Bool.and_eq_true, beq_iff_eq, dirties_iff]

/-- Settles O16, flag by flag: each clause is read off what a command can do to its flag. -/
theorem flagWriters : Obligations.FlagWriters := by
  unfold Obligations.FlagWriters
  refine ⟨⟨rfl, rfl, rfl, rfl⟩, fun i s t h => ⟨fun h0 h1 => ?_, fun h1 h0 => ?_, fun h0 h1 => ?_,
    fun a k v hi ha hm hok => ?_, fun h1 h0 => ?_, fun h0 h1 => ?_, fun h1 h0 => ?_, fun h0 h1 => ?_, fun h1 h0 => ?_⟩⟩
  -- `FRDY`
  · obtain e | ⟨-, e⟩ | ⟨hi, e⟩ := exec_frdy_cases h
    · simp [h0, h1] at e
    · simp [h1] at e
    · exact ⟨hi, by simpa [h0, h1] using e⟩
  · obtain e | ⟨hi, -⟩ | ⟨-, e⟩ := exec_frdy_cases h
    · simp [h0, h1] at e
    · exact hi
    · simp [h0, h1] at e
  -- `SPECDIRTY`
  · obtain e | ⟨-, e⟩ | ⟨a, k, v, hi, hok, e⟩ := exec_specDirty_cases h
    · simp [h0, h1] at e
    · simp [h1] at e
    · obtain hd | ⟨hm, ha⟩ := specDirtyAfter_iff.1 (e.symm.trans h1)
      · simp [h0] at hd
      · exact ⟨hm, hok, a, k, v, hi, ha⟩
  · subst hi
    have hi : Instr.setbin a k v ≠ .init := nofun
    rw [operation_of_ok hi h hok, (operation_frame hi).specDirty]
    exact specDirtyAfter_iff.2 (.inr ⟨hm, ha⟩)
  · obtain e | ⟨hi, -⟩ | ⟨a, -, -, -, -, e⟩ := exec_specDirty_cases h
    · simp [h0, h1] at e
    · exact hi
    · exact absurd (e.trans (specDirtyAfter_iff.2 (.inl h1))) (by simp [h0])
  -- `WTVALID`
  · obtain e | hi | ⟨hi, -⟩ := exec_wtValid_cases h
    · simp [h0, h1] at e
    · exact .inl hi
    · exact .inr hi
  · obtain e | hi | ⟨-, e⟩ := exec_wtValid_cases h
    · simp [h0, h1] at e
    · exact hi
    · simp [h0] at e
  -- `HALT`
  · obtain e | ⟨-, e⟩ | ⟨c, e, hc⟩ := exec_halt_cases h
    · simp [h0, h1] at e
    · simp [h1] at e
    · exact ⟨c, by simpa [h0, h1] using e, hc⟩
  · obtain e | ⟨hi, -⟩ | ⟨c, e, -⟩ := exec_halt_cases h
    · simp [h0, h1] at e
    · exact hi
    · simp [h0, h1] at e

/-! ## The reset state (R61) -/

/-- The binary32 words of the reset values (10_state.md R30, R35, R38). -/
theorem resetIn_binary32 : Staged.resetIn F32.type =
    { winKind := 0, winSize := 1024, hopFactor := 4, srate := 0x472C4400#32, pad := 1, waveKind := 0, tabSize := 1024,
      maxTrk := 32, gsigma := 0x3ECCCCCD#32, thrK := 0x3F800000#32, pkThr := 0x00000000#32, eps := 0x33D6BF95#32 } := by
  decide +kernel

/-- Settles O7: each element of the reset state is what the definition writes. -/
theorem resetState : Obligations.ResetState := by
  unfold Obligations.ResetState
  refine ⟨fun p => ?_, rfl, resetIn_binary32, rfl, rfl, rfl, rfl⟩
  have void := (UnconfInv.resetWith p).void
  exact ⟨rfl, rfl, rfl, rfl, rfl, rfl, rfl, rfl, rfl, rfl, rfl, rfl, rfl, rfl, rfl, rfl, rfl, void.act, void⟩

/-! ## The register `STATUS` (R41) -/

/-- The `STATUS` word as a number: no field reaches into the next. -/
theorem statusWord_toNat (s : State) : (statusWord s).toNat =
    s.mode.code + 4 * s.halt.toNat + 8 * s.frdy.toNat + 16 * s.specDirty.toNat + 32 * s.wtValid.toNat := by
  have := s.halt.toNat_le; have := s.frdy.toNat_le; have := s.specDirty.toNat_le; have := s.wtValid.toNat_le
  have : s.mode.code ≤ 2 := by cases s.mode <;> decide
  rw [statusWord, u32, BitVec.toNat_ofNat, Nat.mod_eq_of_lt (by omega)]

/-- A flag that stands at bit `k` of a word as a number is bit `k` of the word. -/
theorem getLsbD_of_toNat {w : Word} {k : Nat} {b : Bool} (h : w.toNat / 2 ^ k % 2 = b.toNat) : w.getLsbD k = b := by
  rw [BitVec.getLsbD, Nat.testBit_eq_decide_div_mod_eq, h]
  cases b <;> rfl

/-- Settles O24: the fields of the `STATUS` word as a number, one by one. -/
theorem statusBits : Obligations.StatusBits := by
  unfold Obligations.StatusBits
  refine ⟨rfl, rfl, fun s => ?_⟩
  have hword := statusWord_toNat s
  have := s.halt.toNat_le; have := s.frdy.toNat_le; have := s.specDirty.toNat_le; have := s.wtValid.toNat_le
  have : s.mode.code ≤ 2 := by cases s.mode <;> decide
  refine ⟨?_, getLsbD_of_toNat ?_, getLsbD_of_toNat ?_, getLsbD_of_toNat ?_, getLsbD_of_toNat ?_, ?_, fun hh v => ?_⟩
  · have hmode : (statusWord s).toNat % 4 = s.mode.code := by omega
    apply BitVec.eq_of_toNat_eq
    rw [BitVec.extractLsb'_toNat, Nat.shiftRight_zero]
    exact hmode.trans (by cases s.mode <;> rfl)
  · rw [readReg, hword]; omega
  · rw [readReg, hword]; omega
  · rw [readReg, hword]; omega
  · rw [readReg, hword]; omega
  · apply BitVec.eq_of_toNat_eq
    rw [BitVec.extractLsb'_toNat, readReg, hword, Nat.shiftRight_eq_div_pow, Nat.div_eq_of_lt (by omega)]
    rfl
  · rw [exec_eq (i := .wrreg .status v) nofun]
    exact runChecked_of_some _ _ (by simp [checks, illegalWrite, haltedCheck, hh, regReadOnly, Reg.num])

end Sys2Proof.Machine
end

section
/-! PROOFS. The family 20_memory.md: what a reading command and a failing command leave alone (R75), the staged registers
(R79), the index check (R73). -/

namespace Sys2Proof.Machine

variable {s t : State} {i : Instr}

/-! ## The answer of a command -/

/-- Every Operation answers `OK`. -/
theorem responseCode_operation (i : Instr) (s : State) : responseCode (operation i s) = some 0 := by
  cases i with
  | wtgen force kind => obtain ⟨-, e⟩ | e := operation_wtgen_cases force kind s <;> rw [e] <;> rfl
  | _ => rfl

/-- Everything a command other than `INIT` can do, with the code it answers: its Operation and `OK`, or its first error. -/
theorem exec_answer (hi : i ≠ .init) (h : exec i s = .next t) :
    (firstError (checks i s) = none ∧ t = operation i s ∧ responseCode t = some 0) ∨
    ∃ c, firstError (checks i s) = some c ∧ t = raiseError c s ∧ responseCode t = some c.code ∧ c.code ≠ 0 := by
  obtain ⟨rfl, -⟩ | ⟨rfl, -⟩ | ⟨-, hc, rfl⟩ | ⟨-, c, hc, hne, rfl⟩ := exec_cases h
  · exact absurd rfl hi
  · exact absurd rfl hi
  · exact .inl ⟨hc, rfl, responseCode_operation i s⟩
  · exact .inr ⟨c, hc, rfl, rfl, mt raiseError_code_ne_zero.1 hne⟩

/-- A command answers `OK` exactly where its checks pass. -/
theorem checks_pass_of_ok (hi : i ≠ .init) (h : exec i s = .next t) (hok : responseCode t = some 0) :
    firstError (checks i s) = none := by
  obtain ⟨hc, -⟩ | ⟨c, -, -, hr, hne⟩ := exec_answer hi h
  · exact hc
  · exact absurd (Option.some.inj (hr.symm.trans hok)) hne

/-- No check reads a staged register or the last response. -/
theorem checks_withStaged_withResponse (i : Instr) (s : State) (g : Staged) (r : Option Response) :
    checks i { s with staged := g, response := r } = checks i s := by
  cases i <;> rfl

/-! ## Commands that read (R75) -/

/-- The commands that change nothing but the response. -/
def ReadsOnly (i : Instr) : Prop :=
  (∃ a k, i = .getbin a k) ∨ (∃ k, i = .getwt k) ∨ (∃ f j, i = .getosc f j) ∨ (∃ f k, i = .getpk f k) ∨ ∃ r, i = .rdreg r

theorem ReadsOnly.ne_init (h : ReadsOnly i) : i ≠ .init := by
  rintro rfl
  simp [ReadsOnly] at h

/-- No register shows the last response. -/
theorem readReg_respondOk (res : Word) (r : Reg) : readReg (respondOk res s) r = readReg s r := by
  cases r <;> rfl

/-- A reading command answers the value read, and finds the same value once it has answered. -/
theorem ReadsOnly.operation_eq (h : ReadsOnly i) (s : State) :
    ∃ res, operation i s = respondOk res s ∧ operation i (respondOk res s) = respondOk res s := by
  obtain ⟨a, k, rfl⟩ | ⟨k, rfl⟩ | ⟨f, j, rfl⟩ | ⟨f, k, rfl⟩ | ⟨r, rfl⟩ := h
  · exact ⟨_, rfl, rfl⟩
  · exact ⟨_, rfl, rfl⟩
  · exact ⟨_, rfl, rfl⟩
  · exact ⟨_, rfl, rfl⟩
  · exact ⟨_, rfl, by simp only [operation, readReg_respondOk]; rfl⟩

/-- A successful reading command has changed the response only, and repeated it changes nothing. -/
theorem ReadsOnly.exec (hr : ReadsOnly i) (h : exec i s = .next t) (hok : responseCode t = some 0) :
    t = { s with response := t.response } ∧ Machine.exec i t = .next t := by
  obtain ⟨res, hres, again⟩ := hr.operation_eq s
  obtain rfl : t = respondOk res s := (operation_of_ok hr.ne_init h hok).trans hres
  have pass : firstError (checks i (respondOk res s)) = none :=
    (congrArg firstError (checks_withStaged_withResponse i s s.staged _)).trans (checks_pass_of_ok hr.ne_init h hok)
  refine ⟨rfl, ?_⟩
  rw [exec_eq hr.ne_init, runChecked_of_none _ _ pass, again]

/-! ## Slots that a command leaves alone -/

/-- A write to one slot leaves every other slot. -/
theorem slot_setSlot_ne {j k : Nat} (o : Osc) (h : k ≠ j) : (s.setSlot j o).slot k = s.slot k := by
  simp [State.slot, State.setSlot, List.getD_eq_getElem?_getD, List.getElem?_set_ne h.symm]

/-- The slots after an `RDS`, one by one: advanced below `M` where active (47_mixer.md R241). -/
theorem getElem?_mixSlots (s : State) (k : Nat) : (mixSlots s)[k]? = s.osc[k]?.map fun o =>
    if k < s.act.slots ∧ o.active = true then o.advance s.num s.act.tabLen s.act.sampleRate else o := by
  rw [mixSlots, advanceActive, List.getElem?_append, List.length_map, List.length_take, List.getElem?_map,
    List.getElem?_take, List.getElem?_drop]
  rcases Nat.lt_or_ge k s.osc.length with hlen | hlen
  · rcases Nat.lt_or_ge k s.act.slots with hk | hk
    · simp [hk, hlen]
    · simp [hk, not_lt.2 hk, Nat.min_eq_left (hk.trans hlen.le)]
  · rw [if_neg (not_lt.2 ((Nat.min_le_right _ _).trans hlen)), List.getElem?_eq_none hlen,
      List.getElem?_eq_none (by omega), Option.map_none]

/-- An `RDS` leaves every slot that is not active. -/
theorem slot_mixSlots_inactive {k : Nat} (h : (s.slot k).active = false) :
    (mixSlots s).getD k Osc.absent = s.slot k := by
  rw [State.slot, List.getD_eq_getElem?_getD] at *
  rw [List.getD_eq_getElem?_getD, getElem?_mixSlots]
  cases ho : s.osc[k]? with
  | none => rfl
  | some o =>
    rw [ho] at h
    have hf : o.active = false := h
    simp [hf]

/-- Settles O18: a success is the Operation, whose frame is read off its definition; a failure is `raiseError`. -/
theorem readSideEffects : Obligations.ReadSideEffects := by
  unfold Obligations.ReadSideEffects
  refine ⟨fun i s t hr h hok => ReadsOnly.exec hr h hok, fun s t h hok => ?_, fun j s t h hok => ?_,
    fun s t h hok => ?_, fun x s t h hok => ?_, fun i s t hi h hfail => ?_⟩
  · obtain rfl := operation_of_ok (i := .rdo) nofun h hok
    rfl
  · obtain rfl := operation_of_ok (i := .onext j) nofun h hok
    exact ⟨rfl, fun k hk => slot_setSlot_ne _ hk⟩
  · obtain rfl := operation_of_ok (i := .rds) nofun h hok
    exact ⟨rfl, fun k hk => slot_mixSlots_inactive hk⟩
  · obtain rfl := operation_of_ok (i := .wrs x) nofun h hok
    rfl
  · obtain ⟨-, -, hok⟩ | ⟨c, -, rfl, -⟩ := exec_answer hi h
    · exact absurd hok hfail
    · rfl

/-! ## The staged registers (R79) -/

/-- A register above the staged ones does not show what is staged. -/
theorem readReg_withStaged {r : Reg} (hr : 0x0B < r.num.toNat) (s : State) (g : Staged) :
    readReg { s with staged := g } r = readReg s r := by
  cases r with
  | cfgWinKind | cfgWinSize | cfgHopFactor | cfgSrate | cfgPad | cfgWaveKind | cfgTabSize | cfgMaxTrk | cfgGsigma
  | cfgThrK | cfgPkThr | cfgEps => exact absurd hr (by decide)
  | _ => rfl

/-- The Operation of a command that is neither `INIT` nor a read of a staged register reads none of them. -/
theorem operation_withStaged (hi : i ≠ .init) (hr : ∀ r, i = .rdreg r → 0x0B < r.num.toNat) (s : State) (g : Staged) :
    operation i s = { operation i { s with staged := g } with staged := (operation i s).staged } := by
  cases i with
  | init => exact absurd rfl hi
  | rdreg r =>
    simp only [operation, readReg_withStaged (hr r rfl)]
    rfl
  | wrreg r v => cases r <;> rfl
  | setbin a k v => cases a <;> rfl
  | wtgen force kind =>
    simp only [operation]
    split <;> rfl
  | _ => rfl

/-- Settles O19: neither the checks nor the Operation read a staged register. -/
theorem stagedRegistersAreIsolated : Obligations.StagedRegistersAreIsolated := by
  unfold Obligations.StagedRegistersAreIsolated
  intro i s t g hi hr h
  have hchecks : checks i { s with staged := g } = checks i s := checks_withStaged_withResponse i s g s.response
  rw [exec_eq hi, hchecks]
  obtain ⟨hc, rfl, -⟩ | ⟨c, hc, rfl, -⟩ := exec_answer hi h
  · exact ⟨_, runChecked_of_none _ _ hc, operation_withStaged hi hr s g⟩
  · exact ⟨_, runChecked_of_some _ _ hc, rfl⟩

/-! ## The index check (R73) -/

theorem Status.code_eq_index_iff {c : Status} : c.code = 5 ↔ c = .index := by
  cases c <;> decide

/-- In a ready block the checks of a command begin after the ready checks. -/
theorem firstError_readyChecks_append (h : Ready s) (cs : List (Bool × Status)) :
    firstError (readyChecks s ++ cs) = firstError cs := by
  rw [firstError_append, readyChecks_none.2 h, Option.none_or]

/-- An index check before checks of another kind gives `E_INDEX` exactly where it fails. -/
theorem firstError_indexCheck_cons {k : BitVec 20} {len : Nat} {cs : List (Bool × Status)}
    (hcs : ∀ x ∈ cs, x.2 ≠ .index) : firstError (indexCheck k len :: cs) = some .index ↔ len ≤ k.toNat := by
  have rest : firstError cs ≠ some .index := fun h => hcs _ (firstError_mem h) rfl
  simp [indexCheck, rest]

/-- The same after the ready checks of a ready block. -/
theorem firstError_ready_indexCheck (h : Ready s) {k : BitVec 20} {len : Nat} :
    firstError (readyChecks s ++ [indexCheck k len]) = some .index ↔ len ≤ k.toNat := by
  rw [firstError_readyChecks_append h, firstError_indexCheck_cons (by simp)]

/-- In a ready block the first error of a command is `E_INDEX` exactly where its index is outside its array and its target
not read-only (60_exceptions.md R288 steps 5 and 6). -/
theorem firstError_checks_eq_index_iff (h : Ready s) (i : Instr) :
    firstError (checks i s) = some .index ↔ indexOutside s i = true ∧ readOnlyTarget i = false := by
  cases i with
  | nop | init | rdreg | wrreg | wrs | rdo | xfmFft | xfmIfft | wtgen | peaks | rds =>
    refine iff_of_false (fun hc => ?_) (by simp [indexOutside])
    have hmem := firstError_mem hc
    simp [checks, readyChecks, haltedCheck] at hmem
  | getbin a k =>
    rw [checks, firstError_ready_indexCheck h]
    cases a <;> simp [binLen, indexOutside, readOnlyTarget]
  | setbin a k v =>
    rw [checks, firstError_readyChecks_append h, firstError_cons]
    cases a <;> simp [arrayReadOnly, indexCheck, indexOutside, readOnlyTarget]
  | getwt k | getpk f k =>
    rw [checks, firstError_ready_indexCheck h]
    simp [indexOutside, readOnlyTarget]
  | ostop j | onext j | oact on j | getosc f j =>
    rw [checks, slotChecks, firstError_ready_indexCheck h]
    simp [indexOutside, readOnlyTarget]
  | ostart j a f p | oupd j a f p n =>
    rw [checks, slotChecks, List.append_assoc, firstError_readyChecks_append h, List.singleton_append,
      firstError_indexCheck_cons (by simp [oscOperandChecks])]
    simp [indexOutside, readOnlyTarget]

/-- The index of a command is outside its array, array by array (20_memory.md R73). -/
def OutsideArray (s : State) (i : Instr) : Prop :=
  (∃ a k, i = .getbin a k ∧ a ≠ .win ∧ s.act.numBins ≤ k.toNat) ∨
  (∃ k, i = .getbin .win k ∧ s.act.size ≤ k.toNat) ∨
  (∃ a k v, i = .setbin a k v ∧ a ≠ .frq ∧ a ≠ .win ∧ s.act.numBins ≤ k.toNat) ∨
  (∃ k, i = .getwt k ∧ s.act.tabLen < k.toNat) ∨
  (∃ j, s.act.slots ≤ j.toNat ∧ ((∃ a f p, i = .ostart j a f p) ∨ i = .ostop j ∨
    (∃ a f p n, i = .oupd j a f p n) ∨ i = .onext j ∨ (∃ on, i = .oact on j) ∨ ∃ fld, i = .getosc fld j)) ∨
  ∃ fld k, i = .getpk fld k ∧ s.pkCount ≤ k.toNat

theorem outsideArray_iff {s : State} {i : Instr} :
    OutsideArray s i ↔ indexOutside s i = true ∧ readOnlyTarget i = false := by
  cases i with
  | getbin a k => cases a <;> simp [OutsideArray, indexOutside, readOnlyTarget]
  | setbin a k v => cases a <;> simp [OutsideArray, indexOutside, readOnlyTarget]
  | _ => simp [OutsideArray, indexOutside, readOnlyTarget]

/-- Where the block is not halted, `E_INDEX` changes only the error log and the response. -/
theorem raiseError_index (h : s.halt = false) : raiseError .index s = { s with
    errFirst := if s.errCnt = 0 then 5 else s.errFirst
    errLast := 5
    errCnt := if s.errCnt = 0xFFFFFFFF#32 then s.errCnt else s.errCnt + 1
    response := some { status := 5, result := 0 } } := by
  rw [raiseError, satInc, h]
  rfl

/-- A command answers the code of `E_INDEX` exactly where that is its first error. -/
theorem exec_answers_index_iff (h : exec i s = .next t) :
    firstError (checks i s) = some .index ↔ responseCode t = some 5 ∧ t = raiseError .index s := by
  by_cases hi : i = .init
  · subst hi
    obtain ⟨-, -, rfl⟩ | ⟨-, -, rfl⟩ | ⟨hi, -⟩ | ⟨hi, -⟩ := exec_cases h
    · exact iff_of_false nofun (by simp [responseCode_operation])
    · exact iff_of_false nofun (by simp [responseCode, Status.code])
    · exact absurd rfl hi
    · exact absurd rfl hi
  · obtain ⟨hc, -, hr⟩ | ⟨c, hc, rfl, hr, -⟩ := exec_answer hi h
    · exact iff_of_false (by simp [hc]) (by simp [hr])
    · rw [hc, hr, Option.some_inj, Option.some_inj, Status.code_eq_index_iff]
      exact ⟨fun e => ⟨e, e ▸ rfl⟩, And.left⟩

/-- Settles O36: the index is outside exactly where `E_INDEX` is the first error, and that error is the answer. -/
theorem indexRangeChecked : Obligations.IndexRangeChecked := by
  unfold Obligations.IndexRangeChecked
  intro s t i hs _ h
  rw [← raiseError_index hs.1]
  exact outsideArray_iff.trans ((firstError_checks_eq_index_iff hs i).symm.trans (exec_answers_index_iff h))

end Sys2Proof.Machine
end

section
/-! PROOFS. The family 30_encoding.md: packets and well-formed commands determine each other (R90 to R95, R99), and the
illegal encodings are exactly those R98 lists. -/

namespace Sys2Proof

variable {op : Opcode} {sel : BitVec 4} {idx : BitVec 20} {args : List Word} {i : Instr}

/-! ## What each part of the decoder accepts -/

@[simp] theorem whenZero_eq_ok {zero : Bool} {j : Instr} : whenZero zero j = .ok i ↔ zero = true ∧ j = i := by
  cases zero <;> simp [whenZero]

@[simp] theorem noOperand_eq_ok {r : Except DecodeError Instr} : noOperand args r = .ok i ↔ args = [] ∧ r = .ok i := by
  unfold noOperand
  split
  · simp
  · next h => exact iff_of_false nofun fun ⟨hargs, _⟩ => h hargs

@[simp] theorem oneOperand_eq_ok {f : Word → Except DecodeError Instr} :
    oneOperand args f = .ok i ↔ ∃ v, args = [v] ∧ f v = .ok i := by
  unfold oneOperand
  split
  · simp
  · next h => exact iff_of_false nofun fun ⟨v, hv, _⟩ => h v hv

@[simp] theorem threeOperands_eq_ok {f : Word → Word → Word → Except DecodeError Instr} :
    threeOperands args f = .ok i ↔ ∃ u v w, args = [u, v, w] ∧ f u v w = .ok i := by
  unfold threeOperands
  split
  · simp
  · next h => exact iff_of_false nofun fun ⟨u, v, w, hargs, _⟩ => h u v w hargs

@[simp] theorem fourOperands_eq_ok {f : Word → Word → Word → Word → Except DecodeError Instr} :
    fourOperands args f = .ok i ↔ ∃ u v w x, args = [u, v, w, x] ∧ f u v w x = .ok i := by
  unfold fourOperands
  split
  · simp
  · next h => exact iff_of_false nofun fun ⟨u, v, w, x, hargs, _⟩ => h u v w x hargs

@[simp] theorem whenKnown_eq_ok {α : Type} {known : Option α} {e : DecodeError} {f : α → Except DecodeError Instr} :
    whenKnown known e f = .ok i ↔ ∃ a, known = some a ∧ f a = .ok i := by
  cases known <;> simp [whenKnown]

/-! ## Register numbers and selectors name at most one register, array or field each -/

/-- A search by code finds exactly the element with that code, where every element is found by its own. -/
theorem find?_code_eq_some {α β : Type} [BEq β] [LawfulBEq β] {all : List α} {code : α → β}
    (hall : ∀ a, all.find? (fun b => code b == code a) = some a) {c : β} {a : α} :
    all.find? (fun b => code b == c) = some a ↔ c = code a := by
  constructor
  · exact fun h => (eq_of_beq (List.find?_some (p := fun b => code b == c) h)).symm
  · rintro rfl
    exact hall a

@[simp] theorem Reg.ofNum_eq_some {r : Reg} : Reg.ofNum idx = some r ↔ idx = r.num :=
  find?_code_eq_some fun r => by cases r <;> rfl

@[simp] theorem BinArray.ofCode_eq_some {a : BinArray} : BinArray.ofCode sel = some a ↔ sel = a.code :=
  find?_code_eq_some fun a => by cases a <;> rfl

@[simp] theorem OscField.ofCode_eq_some {f : OscField} : OscField.ofCode sel = some f ↔ sel = f.code :=
  find?_code_eq_some fun f => by cases f <;> rfl

@[simp] theorem PkField.ofCode_eq_some {f : PkField} : PkField.ofCode sel = some f ↔ sel = f.code :=
  find?_code_eq_some fun f => by cases f <;> rfl

/-! ## The commands with sub-fields -/

/-- A selector with one used bit (`WTGEN` force, `OACT` enable). -/
theorem eq_boolSel_iff {b : Bool} : sel = boolSel b ↔ sel.extractLsb' 1 3 = 0 ∧ sel.getLsbD 0 = b := by
  revert sel b; decide

/-- An index with eight used bits (`WTGEN` kind). -/
theorem eq_setWidth_iff {kind : BitVec 8} :
    idx = kind.setWidth 20 ↔ idx.extractLsb' 8 12 = 0 ∧ idx.extractLsb' 0 8 = kind := by
  have := idx.isLt
  have := kind.isLt
  simp only [← BitVec.toNat_inj, BitVec.ofNat_eq_ofNat, BitVec.toNat_ofNat, BitVec.toNat_setWidth,
    BitVec.extractLsb'_toNat, Nat.shiftRight_eq_div_pow]
  omega

theorem decodeWrreg_eq_ok {v : Word} {r : Reg} : decodeWrreg sel v r = .ok i ↔
    (r = .mixCtl → mixCtlLegal v = true) ∧ sel = 0 ∧ .wrreg r v = i := by
  unfold decodeWrreg
  split
  · next h => simp [h]
  · next h =>
    rw [whenZero_eq_ok, beq_iff_eq]
    exact ⟨fun hzero => ⟨by simpa using h, hzero⟩, And.right⟩

theorem decodeXfm_eq_ok : decodeXfm sel idx = .ok i ↔
    idx = 0 ∧ (sel = 0 ∧ i = .xfmFft ∨ sel = 1 ∧ i = .xfmIfft) := by
  unfold decodeXfm
  split
  · next h0 => simp [h0, @eq_comm _ i]
  · next h0 =>
    split
    · next h1 => simp [h1, @eq_comm _ i]
    · next h1 => exact iff_of_false nofun fun ⟨_, h⟩ => h.elim (fun h => h0 h.1) fun h => h1 h.1

theorem decodeWtgen_eq_ok : decodeWtgen sel idx = .ok i ↔ ∃ force kind,
    sel = boolSel force ∧ idx = kind.setWidth 20 ∧ Config.waveKindDefined kind.toNat = true ∧ i = .wtgen force kind := by
  simp only [eq_boolSel_iff, eq_setWidth_iff]
  unfold decodeWtgen
  split
  · next hkind =>
    simp only [whenZero_eq_ok, Bool.and_eq_true, beq_iff_eq]
    constructor
    · rintro ⟨⟨hsel, hidx⟩, rfl⟩
      exact ⟨_, _, ⟨hsel, rfl⟩, ⟨hidx, rfl⟩, hkind, rfl⟩
    · rintro ⟨_, _, ⟨hsel, rfl⟩, ⟨hidx, rfl⟩, -, rfl⟩
      exact ⟨⟨hsel, hidx⟩, rfl⟩
  · next hkind =>
    refine iff_of_false nofun ?_
    rintro ⟨_, _, -, ⟨-, rfl⟩, h, -⟩
    exact hkind h

/-- A `WRREG` is well-formed exactly where its value is legal for its register (10_state.md R39). -/
theorem wellFormed_wrreg {r : Reg} {v : Word} :
    (Instr.wrreg r v).wellFormed = true ↔ (r = .mixCtl → mixCtlLegal v = true) := by
  cases r <;> simp [Instr.wellFormed]

/-! ## Packets and well-formed commands determine each other (R94, R95, R99) -/

/-- The encoder writes what the decoder reads, command by command. -/
theorem decode_encode (hwf : i.wellFormed = true) : decode (encode i) = .ok i := by
  cases i with
  | wrreg r v => simpa [encode, decode_packet, decodeFields, decodeWrreg_eq_ok] using wellFormed_wrreg.1 hwf
  | xfmFft | xfmIfft => simp [encode, decode_packet, decodeFields, decodeXfm_eq_ok]
  | wtgen force kind =>
    rw [encode, decode_packet, decodeFields, noOperand_eq_ok, decodeWtgen_eq_ok]
    exact ⟨rfl, force, kind, rfl, rfl, hwf, rfl⟩
  | oact on j =>
    obtain ⟨hzero, hbit⟩ := eq_boolSel_iff.1 (rfl : boolSel on = boolSel on)
    rw [encode, decode_packet, decodeFields, hzero, hbit]
    rfl
  | _ => simp [encode, decode_packet, decodeFields]

/-- What the decoder reads is a well-formed command, whose packet has these fields and operands, opcode by opcode. -/
theorem encode_of_decodeFields (h : decodeFields op sel idx args = .ok i) :
    i.wellFormed = true ∧ encode i = packet op sel idx args := by
  cases op <;> simp only [decodeFields, noOperand_eq_ok, oneOperand_eq_ok, threeOperands_eq_ok, fourOperands_eq_ok,
    whenZero_eq_ok, whenKnown_eq_ok, Reg.ofNum_eq_some, BinArray.ofCode_eq_some, OscField.ofCode_eq_some,
    PkField.ofCode_eq_some, decodeWrreg_eq_ok, decodeXfm_eq_ok, decodeWtgen_eq_ok, Bool.and_eq_true, beq_iff_eq,
    Except.ok.injEq] at h
  case nop | init | rdo | peaks | rds => obtain ⟨rfl, ⟨rfl, rfl⟩, rfl⟩ := h; exact ⟨rfl, rfl⟩
  case wrs => obtain ⟨x, rfl, ⟨rfl, rfl⟩, rfl⟩ := h; exact ⟨rfl, rfl⟩
  case getwt | ostop | onext => obtain ⟨rfl, rfl, rfl⟩ := h; exact ⟨rfl, rfl⟩
  case ostart => obtain ⟨a, f, p, rfl, rfl, rfl⟩ := h; exact ⟨rfl, rfl⟩
  case oupd => obtain ⟨a, f, p, n, rfl, rfl, rfl⟩ := h; exact ⟨rfl, rfl⟩
  case rdreg => obtain ⟨rfl, r, rfl, rfl, rfl⟩ := h; exact ⟨rfl, rfl⟩
  case wrreg =>
    obtain ⟨v, rfl, r, rfl, hlegal, rfl, rfl⟩ := h
    exact ⟨wellFormed_wrreg.2 hlegal, rfl⟩
  case xfm => obtain ⟨rfl, rfl, ⟨rfl, rfl⟩ | ⟨rfl, rfl⟩⟩ := h <;> exact ⟨rfl, rfl⟩
  case getbin | getosc | getpk => obtain ⟨rfl, a, rfl, rfl⟩ := h; exact ⟨rfl, rfl⟩
  case setbin => obtain ⟨v, rfl, a, rfl, rfl⟩ := h; exact ⟨rfl, rfl⟩
  case wtgen => obtain ⟨rfl, force, kind, rfl, rfl, hkind, rfl⟩ := h; exact ⟨hkind, rfl⟩
  case oact =>
    obtain ⟨rfl, hzero, rfl⟩ := h
    have hsel : sel = boolSel (sel.getLsbD 0) := eq_boolSel_iff.2 ⟨hzero, rfl⟩
    exact ⟨rfl, by rw [encode, ← hsel]⟩

/-- A packet that decodes is taken apart into an opcode, fields and operands. -/
theorem packet_of_decode {ws : List Word} (h : decode ws = .ok i) :
    ∃ op sel idx args, ws = packet op sel idx args ∧ decodeFields op sel idx args = .ok i := by
  cases ws with
  | nil => simp [decode] at h
  | cons head args =>
    cases hop : Opcode.ofCode (hdrOpc head) with
    | none => simp [decode, hop] at h
    | some op =>
      refine ⟨op, hdrSel head, hdrIdx head, args, ?_, by simpa [decode, hop] using h⟩
      rw [packet, Opcode.code_ofCode hop, mkHdr_fields]

/-- Settles O1, by the command. -/
theorem decodeEncodeRoundTrip : Obligations.DecodeEncodeRoundTrip := by
  unfold Obligations.DecodeEncodeRoundTrip
  exact fun _ => decode_encode

/-- Settles O2: the packet is that of its fields, and the fields are those of the command. -/
theorem encodeDecodeRoundTrip : Obligations.EncodeDecodeRoundTrip := by
  unfold Obligations.EncodeDecodeRoundTrip
  intro ws i h
  obtain ⟨op, sel, idx, args, rfl, hfields⟩ := packet_of_decode h
  exact encode_of_decodeFields hfields

/-! ## Packets written out by hand (R91, R95) -/

/-- Settles O4, by evaluating the decoder on each packet. -/
theorem decodeOfSpecWords : Obligations.DecodeOfSpecWords := by
  unfold Obligations.DecodeOfSpecWords
  decide

end Sys2Proof

namespace Sys2Proof.Machine

variable {op : Opcode} {sel : BitVec 4} {idx : BitVec 20} {args : List Word}

/-! ## The illegal encodings, in numbers (R98) -/

/-- The register numbers of R26 to R46 are those of the registers. -/
theorem registerNumber_iff : registerNumber idx.toNat = true ↔ ∃ r : Reg, idx = r.num := by
  constructor
  · intro h
    have hnums : ∀ n < 0x3E, registerNumber n = true → (Reg.ofNum (BitVec.ofNat 20 n)).isSome = true := by decide
    have hlt : idx.toNat < 0x3E := by simp [registerNumber] at h; omega
    obtain ⟨r, hr⟩ := Option.isSome_iff_exists.1 (hnums _ hlt h)
    exact ⟨r, by simpa using hr⟩
  · rintro ⟨r, rfl⟩
    cases r <;> rfl

theorem binArray_code_iff : sel.toNat < 7 ↔ ∃ a : BinArray, sel = a.code := by
  have : ∀ c : BitVec 4, c.toNat < 7 ↔ (BinArray.ofCode c).isSome = true := by decide
  simp [this, Option.isSome_iff_exists]

theorem oscField_code_iff : sel.toNat < 10 ↔ ∃ f : OscField, sel = f.code := by
  have : ∀ c : BitVec 4, c.toNat < 10 ↔ (OscField.ofCode c).isSome = true := by decide
  simp [this, Option.isSome_iff_exists]

theorem pkField_code_iff : sel.toNat < 6 ↔ ∃ f : PkField, sel = f.code := by
  have : ∀ c : BitVec 4, c.toNat < 6 ↔ (PkField.ofCode c).isSome = true := by decide
  simp [this, Option.isSome_iff_exists]

/-- A selector with one used bit, in numbers. -/
theorem unusedSelBits_iff : sel.extractLsb' 1 3 = 0 ↔ sel.toNat ≤ 1 := by revert sel; decide

theorem toNat_eq_zero_iff {w : Nat} {x : BitVec w} : x.toNat = 0 ↔ x = 0 := by simp [← BitVec.toNat_inj]

theorem mixCtl_num_iff {r : Reg} : r.num.toNat = 0x10 ↔ r = .mixCtl := by cases r <;> decide

/-- The register numbers and values `WRREG` admits (10_state.md R39). -/
theorem decodes_wrreg_iff {v : Word} : (∃ i r, idx = r.num ∧ decodeWrreg sel v r = .ok i) ↔
    sel.toNat = 0 ∧ registerNumber idx.toNat = true ∧ ¬(idx.toNat = 0x10 ∧ (v.toNat % 4 = 3 ∨ 8 ≤ v.toNat)) := by
  have hlegal : mixCtlLegal v = true ↔ ¬(v.toNat % 4 = 3 ∨ 8 ≤ v.toNat) := by simp [mixCtlLegal, and_comm]
  simp only [decodeWrreg_eq_ok, registerNumber_iff, toNat_eq_zero_iff, hlegal]
  constructor
  · rintro ⟨i, r, rfl, hv, rfl, -⟩
    exact ⟨rfl, ⟨r, rfl⟩, fun ⟨hr, hbad⟩ => hv (mixCtl_num_iff.1 hr) hbad⟩
  · rintro ⟨rfl, ⟨r, rfl⟩, hv⟩
    exact ⟨_, r, rfl, fun hr hbad => hv ⟨mixCtl_num_iff.2 hr, hbad⟩, rfl, rfl⟩

theorem decodes_xfm_iff : (∃ i, decodeXfm sel idx = .ok i) ↔ sel.toNat ≤ 1 ∧ idx.toNat = 0 := by
  have hsel : sel.toNat ≤ 1 ↔ sel = 0 ∨ sel = 1 := by revert sel; decide
  simp [decodeXfm_eq_ok, hsel, toNat_eq_zero_iff, and_comm, exists_or]

/-- Kind 0 is the one kind `WTGEN` admits (log entry 2). -/
theorem decodes_wtgen_iff : (∃ i, decodeWtgen sel idx = .ok i) ↔ sel.toNat ≤ 1 ∧ idx.toNat = 0 := by
  simp only [decodeWtgen_eq_ok, eq_boolSel_iff, unusedSelBits_iff, toNat_eq_zero_iff, Config.waveKindDefined, beq_iff_eq]
  constructor
  · rintro ⟨-, -, -, ⟨hsel, -⟩, rfl, rfl, -⟩
    exact ⟨hsel, rfl⟩
  · rintro ⟨hsel, rfl⟩
    exact ⟨_, _, 0, ⟨hsel, rfl⟩, rfl, rfl, rfl⟩

/-- Opcode by opcode, R98 admits exactly the fields and operands that the decoder reads. -/
theorem legalFields_code_iff :
    legalFields op.code.toNat sel.toNat idx.toNat args = true ↔ ∃ i, decodeFields op sel idx args = .ok i := by
  cases op with
  | nop | init | rdo | peaks | rds | getwt | ostop | onext =>
    simp [legalFields, Opcode.code, decodeFields, toNat_eq_zero_iff, and_assoc]
  | wrs =>
    simp [legalFields, Opcode.code, decodeFields, toNat_eq_zero_iff, List.length_eq_one_iff, and_assoc]
  | ostart => simp [legalFields, Opcode.code, decodeFields, toNat_eq_zero_iff, List.length_eq_three]
  | oupd => simp [legalFields, Opcode.code, decodeFields, toNat_eq_zero_iff, List.length_eq_four]
  | rdreg =>
    simp [legalFields, Opcode.code, decodeFields, toNat_eq_zero_iff, registerNumber_iff, and_assoc, and_comm,
      and_left_comm]
  | wrreg =>
    simp only [decodeFields, oneOperand_eq_ok, whenKnown_eq_ok, Reg.ofNum_eq_some]
    match args with
    | [] | _ :: _ :: _ => simp [legalFields, Opcode.code]
    | [v] => simp [legalFields, Opcode.code, decodes_wrreg_iff, imp_iff_not_or, and_assoc]
  | xfm => simp [legalFields, Opcode.code, decodeFields, decodes_xfm_iff, and_assoc]
  | wtgen => simp [legalFields, Opcode.code, decodeFields, decodes_wtgen_iff, and_assoc]
  | oact => simp [legalFields, Opcode.code, decodeFields, ← unusedSelBits_iff]
  | getbin => simp [legalFields, Opcode.code, decodeFields, binArray_code_iff]
  | setbin => simp [legalFields, Opcode.code, decodeFields, binArray_code_iff, List.length_eq_one_iff]
  | getosc => simp [legalFields, Opcode.code, decodeFields, oscField_code_iff]
  | getpk => simp [legalFields, Opcode.code, decodeFields, pkField_code_iff]

/-- R98 admits no fields under an opcode that R95 does not assign. -/
theorem code_of_legalFields {opc sel idx : Nat} (h : legalFields opc sel idx args = true) :
    ∃ op : Opcode, op.code.toNat = opc := by
  have : opc ∈ Opcode.all.map fun op => op.code.toNat := by
    simp only [legalFields, Bool.or_eq_true, Bool.and_eq_true, beq_iff_eq] at h
    simp only [Opcode.all, Opcode.code, List.map_cons, List.map_nil, List.mem_cons, BitVec.reduceToNat]
    omega
  obtain ⟨op, -, hop⟩ := List.mem_map.1 this
  exact ⟨op, hop⟩

/-- The header's fields as numbers (R91, R92). -/
theorem legalPacket_cons (head : Word) :
    legalPacket (head :: args) = legalFields (hdrOpc head).toNat (hdrSel head).toNat (hdrIdx head).toNat args := by
  have hopc : (hdrOpc head).toNat = head.toNat / 2 ^ 24 := by
    have := head.isLt
    rw [hdrOpc, BitVec.extractLsb'_toNat, Nat.shiftRight_eq_div_pow]
    omega
  have hidx : (hdrIdx head).toNat = head.toNat % 2 ^ 20 := by
    rw [hdrIdx, BitVec.extractLsb'_toNat, Nat.shiftRight_zero]
  rw [legalPacket, hopc, hidx, hdrSel, BitVec.extractLsb'_toNat, Nat.shiftRight_eq_div_pow]

/-- R98: the packets that decode are those that are no illegal encoding. -/
theorem legalPacket_iff {ws : List Word} : legalPacket ws = true ↔ ∃ i, decode ws = .ok i := by
  cases ws with
  | nil => simp [legalPacket, decode]
  | cons head args =>
    rw [legalPacket_cons]
    constructor
    · intro hlegal
      obtain ⟨op, hop⟩ := code_of_legalFields hlegal
      rw [← hop, legalFields_code_iff] at hlegal
      simpa [decode, ← BitVec.eq_of_toNat_eq hop] using hlegal
    · rintro ⟨i, hi⟩
      obtain ⟨op, sel, idx, args, hws, hfields⟩ := packet_of_decode hi
      obtain ⟨rfl, rfl⟩ := List.cons.inj hws
      rw [hdrOpc_mkHdr, hdrSel_mkHdr, hdrIdx_mkHdr, legalFields_code_iff]
      exact ⟨i, hfields⟩

theorem runPacket_of_not_decodes {ws : List Word} (h : ¬∃ i, decode ws = .ok i) (s : State) :
    runPacket ws s = .next (raiseError .illegal s) := by
  cases hd : decode ws with
  | ok i => exact absurd ⟨i, hd⟩ h
  | error e => simp [runPacket, hd]

/-- `E_ILLEGAL` changes only the error log and the response: it does not halt (60_exceptions.md R284). -/
theorem raiseError_illegal (s : State) : raiseError .illegal s = { s with
    errFirst := if s.errCnt = 0 then 1 else s.errFirst
    errLast := 1
    errCnt := if s.errCnt = 0xFFFFFFFF#32 then s.errCnt else s.errCnt + 1
    response := some { status := 1, result := 0 } } := by
  simp [raiseError, satInc, Status.code, Status.halting]

/-- Settles O3: the legal packets are those that decode, and any other raises `E_ILLEGAL`. -/
theorem illegalEncodingsAreReported : Obligations.IllegalEncodingsAreReported := by
  unfold Obligations.IllegalEncodingsAreReported
  intro s ws rest hport
  rw [step_of_port_packet hport]
  refine ⟨fun hlegal => ?_, fun hillegal => ?_⟩
  · obtain ⟨i, hi⟩ := legalPacket_iff.1 hlegal
    exact ⟨i, hi, runPacket_of_decode hi⟩
  · have hnot : ¬∃ i, decode ws = .ok i := by rw [← legalPacket_iff, hillegal]; exact Bool.false_ne_true
    rw [runPacket_of_not_decodes hnot, raiseError_illegal]

end Sys2Proof.Machine
end

section
/-! PROOFS. The family 40_config_registers.md: `NOP` (R121), what `INIT` accepts and establishes (R122 to R124), what every
register reads (R125) and what a register write does (R126). -/

namespace Sys2Proof

/-- A header word as its fields in numbers (30_encoding.md R91). -/
theorem mkHdr_eq_hdr (opc : BitVec 8) (sel : BitVec 4) (idx : BitVec 20) :
    mkHdr opc sel idx = Machine.hdr opc.toNat sel.toNat idx.toNat := by
  apply BitVec.eq_of_toNat_eq
  have hfit := (mkHdr opc sel idx).isLt
  rw [mkHdr_toNat] at hfit
  rw [mkHdr_toNat, Machine.hdr, BitVec.toNat_ofNat, Nat.mod_eq_of_lt hfit]

end Sys2Proof

namespace Sys2Proof.Machine

variable {s : State} {r r' : Reg} {v : Word}

/-! ## `NOP` (R121) -/

/-- Settles O20: the meaning of `NOP` is the answer alone. -/
theorem nopHasNoEffect : Obligations.NopHasNoEffect := by
  unfold Obligations.NopHasNoEffect
  exact ⟨rfl, fun _ => rfl⟩

/-! ## What `INIT` accepts (R123) -/

theorem toNat_eq_one_iff {w : Word} : w.toNat = 1 ↔ w = 1 := by simp [← BitVec.toNat_inj]

theorem windowKindDefined_iff {w : Word} : Config.windowKindDefined w.toNat = true ↔ w = 0 ∨ w = 1 := by
  rw [Config.windowKindDefined, Bool.or_eq_true, beq_iff_eq, beq_iff_eq, toNat_eq_zero_iff, toNat_eq_one_iff]

theorem waveKindDefined_iff {w : Word} : Config.waveKindDefined w.toNat = true ↔ w = 0 := by
  rw [Config.waveKindDefined, beq_iff_eq, toNat_eq_zero_iff]

theorem finitePositive_iff {N : NumType} {x : NUM} :
    finitePositive N x = true ↔ N.isFinite x = true ∧ N.gt x N.zero = true := by
  rw [finitePositive, Bool.and_eq_true]

/-- Settles O22: the check is the conjunction of V1 to V12, each of which means what R123 says. -/
theorem configLegalConditions : Obligations.ConfigLegalConditions := by
  unfold Obligations.ConfigLegalConditions
  intro p g N
  have hgauss : (g.winKind != 1 || finitePositive N g.gsigma) = true ↔
      (g.winKind = 1 → N.isFinite g.gsigma = true ∧ N.gt g.gsigma N.zero = true) := by
    rw [Bool.or_eq_true, bne_iff_ne, finitePositive_iff, imp_iff_not_or]
  have hpad : (g.pad == 0 || g.pad == 1) = true ↔ g.pad = 0 ∨ g.pad = 1 := by
    rw [Bool.or_eq_true, beq_iff_eq, beq_iff_eq]
  simp only [configLegal, Bool.and_eq_true, decide_eq_true_eq, windowKindDefined_iff, waveKindDefined_iff,
    isPow2_iff, finitePositive_iff, hgauss, hpad, and_assoc, N]

/-! ## What `INIT` establishes (R124) -/

/-- The window of R158, where the implementation takes the default. -/
theorem window_formula {p : Params} (h : p.window = .formula) (kind : Word) (n k : Nat) (gsigma : NUM) :
    window p kind.toNat n k gsigma =
      if kind = 0 then hann p.num.ops n k else gaussian p.num.ops n k gsigma := by
  simp only [window, h, toNat_eq_zero_iff]

theorem window_other {p : Params} (h : p.window = .other) (kind n k : Nat) (gsigma : NUM) :
    window p kind n k gsigma = Config.otherWindow kind n k gsigma := by
  simp only [window, h]

/-- The waveform of R191, where the implementation takes the default. -/
theorem waveGen_formula {p : Params} (h : p.waveGen = .formula) (kind t k : Nat) :
    waveGen p kind t k = sineSample p.num.ops t k := by
  simp only [waveGen, h]

theorem waveGen_other {p : Params} (h : p.waveGen = .other) (kind t k : Nat) :
    waveGen p kind t k = Config.otherWaveGen kind t k := by
  simp only [waveGen, h]

section Establish

variable (a : Active) (s : State) {k : Nat}

theorem readAt_establish_win (h : k < a.size) :
    readAt (establish a s).win k = window s.params a.windowKind.toNat a.size k a.gsigma :=
  readAt_map_range h

theorem readAt_establish_frq (h : k < a.numBins) : readAt (establish a s).frq k = binFrequency s.num a k :=
  readAt_map_range h

theorem readAt_establish_mthr (h : k < a.numBins) : readAt (establish a s).mthr k =
    s.num.mul s.num.twenty
      (s.num.log10 (s.num.div s.num.one (s.num.mul a.thrK (readAt (establish a s).frq k)))) := by
  rw [readAt_establish_frq a s h]
  exact readAt_map_range h

theorem readAt_establish_wt (h : k < a.tabLen) :
    readAt (establish a s).wt k = waveGen s.params a.waveKind.toNat a.tabLen k :=
  readAt_waveTable h

end Establish

/-- A legal `CFG_PAD` is its bit 0 (10_state.md R31). -/
theorem latch_padFlag {g : Staged} (h : g.pad = 0 ∨ g.pad = 1) : (latch g).padFlag = g.pad.getLsbD 0 := by
  rcases h with h | h <;> rw [latch, h] <;> rfl

/-- Settles O21: a legal configuration is latched, and the fields are those of `establish` after `discard`. -/
theorem initEstablishes : Obligations.InitEstablishes := by
  unfold Obligations.InitEstablishes
  refine ⟨rfl, fun s hlegal => ⟨_, exec_init_legal hlegal, ?_⟩⟩
  obtain ⟨hkind, -, -, -, hpad, -⟩ := (configLegalConditions s.params s.staged).1 hlegal
  have htab : 0 < (latch s.staged).tabLen := Nat.zero_lt_of_lt (geometryLegal_latch hlegal).tabMin
  have fit := ArraysFit.establish (latch s.staged) (discard s)
  refine ⟨?_, rfl, rfl, rfl, rfl, fit.win, fun k hk => ?_, hkind, rfl, rfl, rfl, rfl, rfl, fit.frq,
    fun k hk => readAt_establish_frq _ _ hk, fit.mthr, fun k hk => readAt_establish_mthr _ _ hk, rfl, rfl, fit.wt,
    fun k hk => ?_, readAt_waveTable_guard htab, rfl, rfl, rfl, rfl, rfl, rfl, rfl, rfl, rfl, rfl, rfl, rfl, rfl, rfl,
    rfl, rfl, rfl, rfl, rfl, rfl, rfl⟩
  · exact congrArg (fun pad => { latch s.staged with padFlag := pad }) (latch_padFlag hpad)
  · refine (readAt_establish_win (latch s.staged) (discard s) hk).trans ?_
    cases hw : s.params.window with
    | formula => exact window_formula hw _ _ _ _
    | other => exact window_other hw _ _ _ _
  · refine (readAt_establish_wt (latch s.staged) (discard s) hk).trans ?_
    cases hw : s.params.waveGen with
    | formula => exact waveGen_formula hw _ _ _
    | other => exact waveGen_other hw _ _ _

/-! ## The word of `MIXCTL` (10_state.md R39) -/

theorem NormMode.code_le (m : NormMode) : m.code ≤ 2 := by cases m <;> decide

/-- The `MIXCTL` word as a number: `DENORM` stands above `NORMMODE`. -/
theorem mixCtlWord_toNat (s : State) : (mixCtlWord s).toNat = s.normMode.code + 4 * s.denorm.toNat := by
  have := s.normMode.code_le; have := s.denorm.toNat_le
  rw [mixCtlWord, u32, BitVec.toNat_ofNat, Nat.mod_eq_of_lt (by omega)]

theorem mixCtlLegal_iff : mixCtlLegal v = true ↔ ¬(v.toNat % 4 = 3 ∨ 8 ≤ v.toNat) := by
  simp [mixCtlLegal, and_comm]

theorem normModeOf_code (h : v.toNat % 4 ≠ 3) : (normModeOf v).code = v.toNat % 4 := by
  unfold normModeOf
  split
  · next h0 => rw [h0]; rfl
  · split
    · next h1 => rw [h1]; rfl
    · exact (by omega : 2 = v.toNat % 4)

theorem denormOf_toNat (v : Word) : (denormOf v).toNat = v.toNat / 4 % 2 := by
  rw [denormOf, BitVec.getLsbD, Nat.toNat_testBit]

/-- A legal `MIXCTL` value reads back exactly as it was written. -/
theorem mixCtlWord_write (h : mixCtlLegal v = true) (s : State) :
    mixCtlWord { s with normMode := normModeOf v, denorm := denormOf v } = v := by
  rw [mixCtlLegal_iff] at h
  apply BitVec.eq_of_toNat_eq
  calc _ = (normModeOf v).code + 4 * (denormOf v).toNat := mixCtlWord_toNat _
    _ = v.toNat % 4 + 4 * (v.toNat / 4 % 2) := by rw [normModeOf_code (by omega), denormOf_toNat]
    _ = v.toNat := by omega

/-! ## What a register reads (R125) -/

theorem whenConfigured_unconf (h : s.mode = .unconf) (d v : Word) : whenConfigured s d v = d := if_pos h

theorem whenConfigured_configured (h : s.mode ≠ .unconf) (d v : Word) : whenConfigured s d v = v := if_neg h

/-- A count reads modulo `2^32` while configured. -/
theorem whenConfigured_u32_toNat (h : s.mode ≠ .unconf) (d : Word) (n : Nat) :
    (whenConfigured s d (u32 n)).toNat = n % 2 ^ 32 := by
  rw [whenConfigured_configured h, u32, BitVec.toNat_ofNat]

/-- The status registers from `0x24` on while `UNCONF` (10_state.md R43 to R46). -/
theorem readReg_unconf (hm : s.mode = .unconf) (hr : 0x24 ≤ r.num.toNat) :
    readReg s r = if r = .normFactor ∨ r = .denormFactor then s.num.one
      else if r = .srate ∨ r = .binWidth ∨ r = .maxAmp ∨ r = .eps then s.num.zero
      else if r = .id then s.params.idValue else 0 := by
  cases r with
  | cfgWinKind | cfgWinSize | cfgHopFactor | cfgSrate | cfgPad | cfgWaveKind | cfgTabSize | cfgMaxTrk | cfgGsigma
  | cfgThrK | cfgPkThr | cfgEps | mixCtl | mixGain | status | errFirst | errLast | errCnt => exact absurd hr (by decide)
  | id => rfl
  | _ => exact whenConfigured_unconf hm _ _

/-- Counting the elements that satisfy `p` among the first `n` is counting their indices, if what is read outside the list
does not satisfy it. -/
theorem countP_take_eq_length_filter_range {α : Type} {p : α → Bool} {d : α} (hd : p d = false) (l : List α) (n : Nat) :
    (l.take n).countP p = ((List.range n).filter fun j => p (l.getD j d)).length := by
  induction n with
  | zero => rfl
  | succ n ih =>
    rw [List.take_add_one, List.countP_append, ih, List.range_succ, List.filter_append, List.length_append,
      List.filter_singleton, List.getD_eq_getElem?_getD]
    cases l[n]? with
    | none => simp [hd]
    | some x => cases hx : p x <;> simp [hx]

/-- `NACTIVE` counts the indices below `M` of active slots (10_state.md R46). -/
theorem activeCount_eq (s : State) :
    activeCount s = ((List.range s.act.slots).filter fun j => (s.slot j).active).length :=
  countP_take_eq_length_filter_range rfl s.osc s.act.slots

/-- Settles O23, register by register. -/
theorem rdregReadsRegister : Obligations.RdregReadsRegister := by
  unfold Obligations.RdregReadsRegister
  refine ⟨fun r => congrArg (fun h => [h]) (mkHdr_eq_hdr _ _ _), fun _ _ => rfl, fun s => ?_, fun _ => ⟨rfl, rfl, rfl⟩,
    fun r s hm hr => readReg_unconf hm hr, fun s hm => ?_⟩
  · have hword := mixCtlWord_toNat s
    have := s.normMode.code_le; have := s.denorm.toNat_le
    refine ⟨rfl, rfl, rfl, rfl, rfl, rfl, rfl, rfl, rfl, rfl, rfl, rfl, ?_, getLsbD_of_toNat ?_, ?_, rfl⟩
    · have hnorm : (mixCtlWord s).toNat % 4 = s.normMode.code := by omega
      apply BitVec.eq_of_toNat_eq
      rw [BitVec.extractLsb'_toNat, Nat.shiftRight_zero]
      exact hnorm.trans (by cases s.normMode <;> rfl)
    · rw [readReg, hword]; omega
    · apply BitVec.eq_of_toNat_eq
      rw [BitVec.extractLsb'_toNat, readReg, hword, Nat.shiftRight_eq_div_pow, Nat.div_eq_of_lt (by omega)]
      rfl
  · have shows := whenConfigured_configured hm
    have counts := whenConfigured_u32_toNat hm 0
    exact ⟨shows _ _, counts _, counts _, counts _, shows _ _, shows _ _, shows _ _, shows _ _, shows _ _, shows _ _,
      shows _ _, shows _ _, counts _, counts _, counts _, counts _, shows _ _, shows _ _, shows _ _, counts _, counts _,
      shows _ _, shows _ _, shows _ _, (counts _).trans (by rw [activeCount_eq]), rfl⟩

/-! ## What a register write does (R126) -/

/-- A write changes staged and live registers only. -/
theorem writeReg_frame (s : State) (v : Word) (r : Reg) : writeReg s v r = { s with
    staged := (writeReg s v r).staged, normMode := (writeReg s v r).normMode
    denorm := (writeReg s v r).denorm, mixGain := (writeReg s v r).mixGain } := by
  cases r <;> rfl

theorem readReg_writeReg_same (hr : r.num.toNat < 0x20) (hv : r = .mixCtl → mixCtlLegal v = true) (s : State) :
    readReg (writeReg s v r) r = v := by
  cases r with
  | cfgWinKind | cfgWinSize | cfgHopFactor | cfgSrate | cfgPad | cfgWaveKind | cfgTabSize | cfgMaxTrk | cfgGsigma
  | cfgThrK | cfgPkThr | cfgEps | mixGain => rfl
  | mixCtl => exact mixCtlWord_write (hv rfl) s
  | _ => exact absurd hr (by decide)

/-- A write leaves every other register: a staged or live one has an element of its own, a status register shows none. -/
theorem readReg_writeReg_ne (h : r' ≠ r) (s : State) (v : Word) : readReg (writeReg s v r) r' = readReg s r' := by
  cases r' with
  | cfgWinKind | cfgWinSize | cfgHopFactor | cfgSrate | cfgPad | cfgWaveKind | cfgTabSize | cfgMaxTrk | cfgGsigma
  | cfgThrK | cfgPkThr | cfgEps | mixCtl | mixGain => cases r <;> first | rfl | exact absurd rfl h
  | _ => rw [writeReg_frame s v r]; rfl

theorem illegalWrite_iff : illegalWrite r v = true ↔ r = .mixCtl ∧ (v.toNat % 4 = 3 ∨ 8 ≤ v.toNat) := by
  rw [illegalWrite, Bool.and_eq_true, beq_iff_eq, Bool.not_eq_true', ← Bool.not_eq_true, mixCtlLegal_iff, not_not]

theorem regReadOnly_iff : regReadOnly r = true ↔ 0x20 ≤ r.num.toNat := decide_eq_true_iff

/-- The first check of `WRREG` that fails, in the order of R126. -/
theorem firstError_wrreg : firstError (checks (.wrreg r v) s) =
    if illegalWrite r v then some .illegal else if s.halt then some .halted
    else if regReadOnly r then some .rdonly else none := rfl

/-- Settles O25: the checks one after the other, then the write, which reads back and leaves the rest. -/
theorem wrregWritesRegister : Obligations.WrregWritesRegister := by
  unfold Obligations.WrregWritesRegister
  intro r v s
  rw [exec_eq (i := .wrreg r v) nofun]
  refine ⟨congrArg (fun h => [h, v]) (mkHdr_eq_hdr _ _ _), fun hr hv => ?_, fun hvalue => ?_⟩
  · exact runChecked_of_some _ _ (by rw [firstError_wrreg, if_pos (illegalWrite_iff.2 ⟨hr, hv⟩)])
  have hlegal : ¬illegalWrite r v = true := mt illegalWrite_iff.1 hvalue
  refine ⟨fun hh => ?_, fun hh hr => ?_, fun hh hr => ?_⟩
  · exact runChecked_of_some _ _ (by rw [firstError_wrreg, if_neg hlegal, if_pos hh])
  · exact runChecked_of_some _ _ (by
      rw [firstError_wrreg, if_neg hlegal, if_neg (by simp [hh]), if_pos (regReadOnly_iff.2 hr)])
  · have hpass : firstError (checks (.wrreg r v) s) = none := by
      rw [firstError_wrreg, if_neg hlegal, if_neg (by simp [hh]), if_neg (by rw [regReadOnly_iff]; omega)]
    have hmix (e : r = .mixCtl) : mixCtlLegal v = true := mixCtlLegal_iff.2 fun hv => hvalue ⟨e, hv⟩
    refine ⟨_, runChecked_of_none _ _ hpass, ?_, fun r' hr' => ?_, ?_⟩
    · exact (readReg_respondOk 0 r).trans (readReg_writeReg_same hr hmix s)
    · exact (readReg_respondOk 0 r').trans (readReg_writeReg_ne hr' s v)
    · exact congrArg (respondOk 0) (writeReg_frame s v r)

end Sys2Proof.Machine
end

section
/-! PROOFS. The family 41_ring_stream.md: the ring buffer as a window on a stream (R140, R144), `WRS` (R141), `RDO` (R143)
and the cadence of balanced operation (R145). -/

namespace Sys2Proof.Machine

open Sys2Proof.Firmware

variable {s : State} {i : Instr} {g : Ring} {x : Nat → NUM} {n a b m : Nat}

/-! ## Issuing commands -/

@[simp] theorem issueAll_nil (s : State) : issueAll [] s = s := rfl

@[simp] theorem issueAll_cons (i : Instr) (is : List Instr) (s : State) :
    issueAll (i :: is) s = issueAll is (issue i s) := rfl

@[simp] theorem issueAll_append (is js : List Instr) (s : State) :
    issueAll (is ++ js) s = issueAll js (issueAll is s) := List.foldl_append

/-- A command whose checks pass leaves what its Operation leaves. -/
theorem issue_of_checks (hi : i ≠ .init) (hc : firstError (checks i s) = none) : issue i s = operation i s := by
  rw [issue, exec_eq hi, runChecked_of_none _ _ hc]

/-- A command whose checks begin with the ready checks answers as R120 says in a block that is not ready. -/
theorem readyGuard_of_checks (hi : i ≠ .init) {cs : List (Bool × Status)} (hc : checks i s = readyChecks s ++ cs) :
    ReadyGuard i s := by
  unfold ReadyGuard
  rw [exec_eq hi, hc]
  refine ⟨fun hh => runChecked_of_some _ _ ?_, fun hh hm => runChecked_of_some _ _ ?_⟩
  · simp [readyChecks, haltedCheck, hh]
  · simp [readyChecks, haltedCheck, hh, hm]

/-! ## The ring buffer read as a whole (R140, R157) -/

/-- Reads in a row answer the elements from the read cursor on, round the end of the buffer. -/
theorem Ring.readMany_eq (h : isPow2 g.buf.length = true) (hr : g.r < g.buf.length) (m : Nat) :
    g.readMany m = (List.range m).map fun k => readAt g.buf ((g.r + k) % g.buf.length) := by
  induction m generalizing g with
  | zero => rfl
  | succ m ih =>
    have hpos : 0 < g.buf.length := Nat.zero_lt_of_lt hr
    rw [Ring.readMany, ih (g := g.pop) h (mask_lt hpos), List.range_succ_eq_map, List.map_cons, List.map_map]
    congr 1
    · rw [Nat.add_zero, Nat.mod_eq_of_lt hr, Ring.front]
    · refine List.map_congr_left fun k _ => ?_
      rw [Ring.pop_r, Ring.pop_buf, mask_eq_mod h, Nat.mod_add_mod, Function.comp_apply, Nat.add_assoc, Nat.add_comm 1]

/-- As many reads as the ring holds bring the read cursor round. -/
theorem Ring.popMany_length (h : isPow2 g.buf.length = true) (hr : g.r < g.buf.length) : g.popMany g.buf.length = g := by
  have hcursor : (g.popMany g.buf.length).r = g.r := by
    rw [Ring.popMany_r h hr, Nat.add_mod_right, Nat.mod_eq_of_lt hr]
  calc g.popMany g.buf.length
      = .mk (g.popMany g.buf.length).buf (g.popMany g.buf.length).w (g.popMany g.buf.length).r := rfl
    _ = .mk g.buf g.w g.r := by rw [Ring.popMany_buf, Ring.popMany_w, hcursor]
    _ = g := rfl

/-- A frame read leaves the buffer and moves the read cursor one hop on (R157). -/
theorem afterFrame_eq {A : Active} (hlen : g.buf.length = A.size) (h : isPow2 A.size = true) (hr : g.r < A.size) :
    afterFrame A g = { g with r := (g.r + A.hopSize) % A.size } := by
  have hround : g.popMany A.size = g := hlen ▸ Ring.popMany_length (hlen ▸ h) (hlen ▸ hr)
  rw [afterFrame, hround, mask_eq_mod h]

/-! ## A ring as a window on a stream -/

/-- A ring of capacity `n` holds the samples `a .. b - 1` of the stream `x`, each in its place modulo `n`, and is about to
take sample `b`. -/
structure Ring.Holds (g : Ring) (n : Nat) (x : Nat → NUM) (a b : Nat) : Prop where
  pow2 : isPow2 n = true
  length : g.buf.length = n
  cursor : g.w = b % n
  sample : ∀ j, a ≤ j → j < b → readAt g.buf (j % n) = x j

/-- Two numbers less than `n` apart have different remainders. -/
theorem mod_ne_mod_of_lt {j b n : Nat} (hjb : j < b) (hn : b < j + n) : j % n ≠ b % n := by
  intro h
  have hdvd : n ∣ b - j := (Nat.modEq_iff_dvd' hjb.le).1 h
  have := Nat.le_of_dvd (by omega) hdvd
  omega

namespace Ring.Holds

theorem pos (h : g.Holds n x a b) : 0 < n := by
  obtain ⟨k, rfl⟩ := isPow2_iff.1 h.pow2
  positivity

/-- What is held of a stream is held of any later part of it. -/
theorem drop {a' : Nat} (h : g.Holds n x a b) (ha : a ≤ a') : g.Holds n x a' b :=
  { h with sample := fun j hj => h.sample j (ha.trans hj) }

/-- The read cursor is no part of what a ring holds. -/
theorem withCursor (h : g.Holds n x a b) (r : Nat) : Ring.Holds { g with r := r } n x a b := { h with }

/-- A ring with room takes the next sample of the stream. -/
theorem write (h : g.Holds n x a b) (hroom : b < a + n) : (g.write (x b)).Holds n x a (b + 1) where
  pow2 := h.pow2
  length := (Ring.write_length g _).trans h.length
  cursor := by rw [Ring.write_w, h.length, mask_eq_mod h.pow2, h.cursor, Nat.mod_add_mod]
  sample j haj hjb := by
    have hbuf : (g.write (x b)).buf = writeAt g.buf (b % n) (x b) := by rw [Ring.write, h.cursor]
    rw [hbuf]
    rcases Nat.lt_succ_iff_lt_or_eq.1 hjb with hlt | rfl
    · rw [readAt_writeAt_ne _ (mod_ne_mod_of_lt hlt (by omega)), h.sample j haj hlt]
    · exact readAt_writeAt_same _ (h.length.symm ▸ Nat.mod_lt _ h.pos)

/-- A ring with room takes the next `m` samples of the stream. -/
theorem writeMany (h : g.Holds n x a b) (hroom : b + m ≤ a + n) :
    (g.writeMany ((List.range m).map fun k => x (b + k))).Holds n x a (b + m) := by
  induction m generalizing g b with
  | zero => exact h
  | succ m ih =>
    rw [List.range_succ_eq_map, List.map_cons, List.map_map, Ring.writeMany]
    have hrest := ih (h.write (by omega)) (by omega)
    simpa only [Function.comp_def, Nat.succ_eq_add_one, Nat.add_zero, Nat.add_assoc, Nat.add_comm 1] using hrest

/-- Reads from the place of sample `a` on answer the samples in order. -/
theorem readMany (h : g.Holds n x a b) (hr : g.r = a % n) (hm : a + m ≤ b) :
    g.readMany m = (List.range m).map fun k => x (a + k) := by
  rw [Ring.readMany_eq (h.length ▸ h.pow2) (by rw [hr, h.length]; exact Nat.mod_lt _ h.pos)]
  refine List.map_congr_left fun k hk => ?_
  have := List.mem_range.1 hk
  rw [hr, h.length, Nat.mod_add_mod, h.sample _ (by omega) (by omega)]

end Ring.Holds

/-- A ring whose write cursor is in range holds the empty part of any stream at that place. -/
theorem Ring.holds_empty (h : isPow2 g.buf.length = true) (hw : g.w < g.buf.length) (x : Nat → NUM) :
    g.Holds g.buf.length x g.w g.w where
  pow2 := h
  length := rfl
  cursor := (Nat.mod_eq_of_lt hw).symm
  sample _ hj hj' := absurd hj' (Nat.not_lt.2 hj)

/-- A list as the samples of a stream from place `b` on. -/
theorem map_range_getD_eq (xs : List NUM) (b : Nat) :
    ((List.range xs.length).map fun k => xs.getD (b + k - b) 0) = xs := by
  refine List.ext_getElem (by simp) fun k _ hk => ?_
  simp [hk]

/-- Settles O28: the values are a stream from the place of the cursors on, which the ring holds when they are written. -/
theorem ringIsFifo : Obligations.RingIsFifo := by
  unfold Obligations.RingIsFifo
  intro g xs hpow hlevel hr hfit
  have hw : g.w < g.buf.length := hlevel ▸ hr
  have hholds := (Ring.holds_empty hpow hw fun j => xs.getD (j - g.w) 0).writeMany (m := xs.length) (by omega)
  rw [map_range_getD_eq] at hholds
  constructor
  · rw [hholds.readMany (by rw [Ring.writeMany_r, ← hlevel, Nat.mod_eq_of_lt hw]) le_rfl, map_range_getD_eq]
  · rw [Ring.popMany_w, Ring.writeMany_w hpow hw, Ring.popMany_r (by simpa using hpow) (by simpa using hr),
      Ring.writeMany_r, Ring.writeMany_length, hlevel]

/-! ## `RDO` (R143) -/

theorem exec_rdo (h : Ready s) : exec .rdo s = .next (operation .rdo s) :=
  runChecked_of_none _ _ (readyChecks_none.2 h)

/-- `RDO`s in a row pop the output ring as often. -/
theorem issueAll_rdo_outRing (h : Ready s) (k : Nat) :
    (issueAll (List.replicate k .rdo) s).outRing = s.outRing.popMany k := by
  induction k generalizing s with
  | zero => rfl
  | succ k ih =>
    rw [List.replicate_succ, issueAll_cons, issue_of_checks (i := .rdo) nofun (readyChecks_none.2 h),
      ih (s := operation .rdo s) h]
    rfl

/-- Settles O27: the element under the read cursor, and the cursor round the ring. -/
theorem rdoPopsSample : Obligations.RdoPopsSample := by
  unfold Obligations.RdoPopsSample
  refine fun s => ⟨by decide, readyGuard_of_checks nofun (List.append_nil _).symm, fun h hinv => ?_, fun h hinv => ?_⟩
  · have c := hinv.configured h.2
    have hpop : s.outRing.pop = { s.outRing with r := (s.outRing.r + 1) % s.act.size } := by
      rw [Ring.pop, Ring.advance, c.fits.outBuf, mask_eq_mod c.geometry.sizePow2]
    rw [exec_rdo h, operation, hpop]
    rfl
  · have c := hinv.configured h.2
    rw [issueAll_rdo_outRing h, ← c.fits.outBuf]
    exact Ring.popMany_length (c.fits.outBuf ▸ c.geometry.sizePow2) (c.fits.outBuf ▸ c.outR)

/-! ## `WRS` (R141) -/

theorem exec_wrs (h : Ready s) (v : NUM) : exec (.wrs v) s = .next (operation (.wrs v) s) :=
  runChecked_of_none _ _ (readyChecks_none.2 h)

theorem frameReady_iff : frameReady s = true ↔ satInc s.count = s.appetite := beq_iff_eq

/-- Settles O26: the ring write, and the count that reaches the appetite or does not. -/
theorem wrsPushesSample : Obligations.WrsPushesSample := by
  unfold Obligations.WrsPushesSample
  intro v s
  refine ⟨congrArg (fun h => [h, v]) (by decide), readyGuard_of_checks nofun (List.append_nil _).symm, fun h hinv => ?_⟩
  have c := hinv.configured h.2
  refine ⟨_, exec_wrs h v, ?_, fun k hk => readAt_writeAt_ne v hk, ?_, rfl, fun hcount => ?_, fun hcount => ?_, rfl⟩
  · exact readAt_writeAt_same v (c.fits.inBuf ▸ c.inW)
  · exact (Ring.write_w s.inRing v).trans (by rw [c.fits.inBuf, mask_eq_mod c.geometry.sizePow2])
  · have hready : frameReady s = true := frameReady_iff.2 hcount
    simp [operation, hready, flagWord]
  · have hready : frameReady s = false := Bool.eq_false_iff.2 (mt frameReady_iff.1 hcount)
    simp [operation, hready, flagWord]

/-! ## Balanced operation (R145) -/

/-- The `WRS` commands of samples `b .. b + m - 1` of the stream `x`. -/
def wrsList (x : Nat → NUM) (b m : Nat) : List Instr := (List.range m).map fun k => .wrs (x (b + k))

theorem wrsList_succ (x : Nat → NUM) (b m : Nat) : wrsList x b (m + 1) = wrsList x b m ++ [.wrs (x (b + m))] := by
  simp [wrsList, List.range_succ]

theorem balanced_zero (x : Nat → NUM) (n h : Nat) : balanced x n h 0 = wrsList x 0 n := by
  simp [balanced, wrsList]

theorem balanced_succ (x : Nat → NUM) (n h f : Nat) :
    balanced x n h (f + 1) = balanced x n h f ++ [.xfmFft, .xfmIfft] ++ wrsList x (n + f * h) h := rfl

/-- A legal geometry has a hop of one sample to a whole frame (10_state.md R25). -/
theorem GeometryLegal.hopSize_bounds {p : Params} {A : Active} (h : GeometryLegal p A) :
    1 ≤ A.hopSize ∧ A.hopSize ≤ A.size := by
  obtain ⟨k, hk⟩ := isPow2_iff.1 h.hopPow2
  have hpos : 0 < A.hopFactor.toNat := by rw [hk]; positivity
  exact ⟨(Nat.one_le_div_iff hpos).2 h.hopMax, Nat.div_le_self ..⟩

/-- The block, configured as `A`, streams `x`: the frame that begins at sample `a` is being filled and the next sample is
`b`. The count lacks of the appetite what the frame lacks of `N` samples, and `FRDY` says that it lacks none. -/
structure Streaming (A : Active) (x : Nat → NUM) (a b : Nat) (s : State) : Prop where
  act : s.act = A
  mode : s.mode = .waveform
  halt : s.halt = false
  ring : s.inRing.Holds A.size x a b
  cursor : s.inRing.r = a % A.size
  due : s.count.toNat + (a + A.size) = b + s.appetite.toNat
  frdy : s.frdy = decide (a + A.size ≤ b)

/-- A count that does not saturate. -/
theorem satInc_toNat {c : Word} (h : c.toNat + 1 < 2 ^ 32) : (satInc c).toNat = c.toNat + 1 := by
  unfold satInc
  split <;> bv_omega

namespace Streaming

variable {A : Active}

theorem ready (h : Streaming A x a b s) : Ready s := ⟨h.halt, by rw [h.mode]; nofun⟩

theorem issue_wrs (h : Streaming A x a b s) (v : NUM) : issue (.wrs v) s = operation (.wrs v) s :=
  issue_of_checks nofun (readyChecks_none.2 h.ready)

/-- The count of an unfinished frame does not saturate. -/
theorem satInc_count (h : Streaming A x a b s) (hroom : b < a + A.size) :
    (satInc s.count).toNat = s.count.toNat + 1 := by
  have hdue := h.due
  exact satInc_toNat (by omega)

/-- The frame becomes ready with its last sample (R142). -/
theorem frameReady_eq (h : Streaming A x a b s) (hroom : b < a + A.size) :
    frameReady s = decide (b + 1 = a + A.size) := by
  have hdue := h.due
  rw [Bool.eq_iff_iff, frameReady_iff, ← BitVec.toNat_inj, h.satInc_count hroom, decide_eq_true_iff]
  omega

/-- One sample more. -/
theorem after_wrs (h : Streaming A x a b s) (hroom : b < a + A.size) :
    Streaming A x a (b + 1) (issue (.wrs (x b)) s) := by
  rw [h.issue_wrs]
  exact {
    act := h.act
    mode := h.mode
    halt := h.halt
    ring := h.ring.write hroom
    cursor := h.cursor
    due := by
      have hdue := h.due
      have hcount : (operation (.wrs (x b)) s).count.toNat = s.count.toNat + 1 := h.satInc_count hroom
      have happetite : (operation (.wrs (x b)) s).appetite = s.appetite := rfl
      rw [hcount, happetite]
      omega
    frdy := by
      have hfrdy : (operation (.wrs (x b)) s).frdy = (s.frdy || frameReady s) := rfl
      rw [hfrdy, h.frdy, h.frameReady_eq hroom, ← Bool.decide_or, decide_eq_decide]
      omega }

theorem lastResult_wrs (h : Streaming A x a b s) (hroom : b < a + A.size) (v : NUM) :
    lastResult (issue (.wrs v) s) = if b + 1 = a + A.size then 1 else 0 := by
  have hresult : lastResult (operation (.wrs v) s) = flagWord (frameReady s) := rfl
  rw [h.issue_wrs, hresult, h.frameReady_eq hroom, flagWord]
  simp only [decide_eq_true_eq]

/-- `m` samples more, which the frame lacks. -/
theorem after_wrsList (h : Streaming A x a b s) (hroom : b + m ≤ a + A.size) :
    Streaming A x a (b + m) (issueAll (wrsList x b m) s) := by
  induction m with
  | zero => exact h
  | succ m ih =>
    rw [wrsList_succ, issueAll_append]
    exact (ih (by omega)).after_wrs (by omega)

/-- Of the samples a frame lacks, the last one answers 1 and the others answer 0. -/
theorem lastResult_wrsList (h : Streaming A x a b s) (hroom : b + m < a + A.size) :
    lastResult (issueAll (wrsList x b (m + 1)) s) = if b + (m + 1) = a + A.size then 1 else 0 := by
  rw [wrsList_succ, issueAll_append]
  exact (h.after_wrsList hroom.le).lastResult_wrs hroom _

/-- The transforms of a finished frame leave the next one to fill, which begins one hop later (R157, R166, R167). -/
theorem after_transforms (h : Streaming A x a (a + A.size) s) (hhop : 1 ≤ A.hopSize ∧ A.hopSize ≤ A.size) :
    Streaming A x (a + A.hopSize) (a + A.size) (issueAll [.xfmFft, .xfmIfft] s) := by
  have hfft : issue .xfmFft s = operation .xfmFft s :=
    issue_of_checks nofun ((firstError_readyChecks_append h.ready _).trans (by simp [h.mode]))
  have hready : Ready (operation .xfmFft s) := ⟨h.halt, nofun⟩
  have hifft : issue .xfmIfft (operation .xfmFft s) = operation .xfmIfft (operation .xfmFft s) :=
    issue_of_checks (i := .xfmIfft) nofun ((firstError_readyChecks_append hready _).trans rfl)
  rw [issueAll_cons, issueAll_cons, issueAll_nil, hfft, hifft]
  have hring : (operation .xfmIfft (operation .xfmFft s)).inRing
      = { s.inRing with r := (s.inRing.r + A.hopSize) % A.size } := by
    rw [← afterFrame_eq h.ring.length h.ring.pow2 (h.cursor ▸ Nat.mod_lt _ h.ring.pos), ← h.act]
    rfl
  exact {
    act := h.act
    mode := rfl
    halt := h.halt
    ring := by rw [hring]; exact (h.ring.drop (Nat.le_add_right ..)).withCursor _
    cursor := by rw [hring, h.cursor, Nat.mod_add_mod]
    due := by
      have hcount : (operation .xfmIfft (operation .xfmFft s)).count.toNat = 0 := rfl
      have happetite : (operation .xfmIfft (operation .xfmFft s)).appetite = u32 A.hopSize := by rw [← h.act]; rfl
      have hword : (u32 A.hopSize).toNat = A.hopSize :=
        Nat.mod_eq_of_lt (hhop.2.trans_lt A.windowSize.isLt)
      rw [hcount, happetite, hword]
      omega
    frdy := by
      have hfrdy : (operation .xfmIfft (operation .xfmFft s)).frdy = false := rfl
      rw [hfrdy, eq_comm, decide_eq_false_iff_not]
      omega }

/-- Frame `f` of balanced operation is finished and not transformed yet. -/
theorem after_balanced (h : Streaming A x 0 0 s) (hhop : 1 ≤ A.hopSize ∧ A.hopSize ≤ A.size) (f : Nat) :
    Streaming A x (f * A.hopSize) (f * A.hopSize + A.size) (issueAll (balanced x A.size A.hopSize f) s) := by
  induction f with
  | zero =>
    rw [balanced_zero, Nat.zero_mul]
    exact h.after_wrsList le_rfl
  | succ f ih =>
    have hnext := (ih.after_transforms hhop).after_wrsList (m := A.hopSize) (by omega)
    rw [balanced_succ, issueAll_append, issueAll_append, Nat.add_comm A.size, Nat.succ_mul]
    rwa [Nat.add_right_comm] at hnext

/-- In the hop after frame `f` the last sample answers 1 and the others answer 0. -/
theorem lastResult_hop (h : Streaming A x 0 0 s) (hhop : 1 ≤ A.hopSize ∧ A.hopSize ≤ A.size) (f : Nat)
    (hm : m < A.hopSize) :
    lastResult (issueAll (balanced x A.size A.hopSize f ++ [.xfmFft, .xfmIfft]
      ++ wrsList x (A.size + f * A.hopSize) (m + 1)) s) = if m + 1 = A.hopSize then 1 else 0 := by
  have hlast := ((h.after_balanced hhop f).after_transforms hhop).lastResult_wrsList (m := m) (by omega)
  rw [issueAll_append, issueAll_append, Nat.add_comm A.size, hlast]
  exact if_congr (by omega) rfl rfl

/-- In the first frame the last sample answers 1 and the others answer 0. -/
theorem lastResult_first (h : Streaming A x 0 0 s) (hm : m < A.size) :
    lastResult (issueAll (wrsList x 0 (m + 1)) s) = if m + 1 = A.size then 1 else 0 := by
  have hlast := h.lastResult_wrsList (m := m) (by omega)
  simpa only [Nat.zero_add] using hlast

/-- The last command of balanced operation up to a frame answers 1. -/
theorem lastResult_balanced (h : Streaming A x 0 0 s) (hhop : 1 ≤ A.hopSize ∧ A.hopSize ≤ A.size) (f : Nat) :
    lastResult (issueAll (balanced x A.size A.hopSize f) s) = 1 := by
  cases f with
  | zero =>
    have hlast := h.lastResult_first (m := A.size - 1) (by omega)
    rwa [Nat.sub_add_cancel (by omega), if_pos rfl, ← balanced_zero x A.size A.hopSize] at hlast
  | succ f =>
    have hlast := h.lastResult_hop hhop f (m := A.hopSize - 1) (by omega)
    rwa [Nat.sub_add_cancel (by omega), if_pos rfl, ← balanced_succ] at hlast

end Streaming

/-- `INIT` leaves the first frame to fill from the first sample on (R124). -/
theorem streaming_init {t : State} (hc : configLegal s.params s.staged = true) (h : exec .init s = .next t)
    (x : Nat → NUM) : Streaming t.act x 0 0 t := by
  rw [exec_init_legal hc] at h
  cases h
  have hgeometry := geometryLegal_latch hc
  have hmin := hgeometry.sizeMin
  exact {
    act := rfl
    mode := rfl
    halt := rfl
    ring := ⟨hgeometry.sizePow2, List.length_replicate, (Nat.zero_mod _).symm, nofun⟩
    cursor := (Nat.zero_mod _).symm
    due := Nat.zero_add _
    frdy := (decide_eq_false (by change ¬ 0 + (latch s.staged).size ≤ 0; omega)).symm }

/-- Settles O29, by the invariant `Streaming`, which `INIT` establishes and every command of balanced operation keeps. -/
theorem cadenceOfBalancedOperation : Obligations.CadenceOfBalancedOperation := by
  unfold Obligations.CadenceOfBalancedOperation
  intro s0 s x f hc hinit n h t
  have hstart := streaming_init hc hinit x
  have hhop : 1 ≤ s.act.hopSize ∧ s.act.hopSize ≤ s.act.size := by
    rw [exec_init_legal hc] at hinit
    cases hinit
    exact (geometryLegal_latch hc).hopSize_bounds
  have ht := hstart.after_balanced hhop f
  refine ⟨ht.mode, ht.halt, ht.frdy.trans (decide_eq_true le_rfl), hstart.lastResult_balanced hhop f, ?_, ht.cursor,
    ht.ring.readMany ht.cursor le_rfl, fun m hm => ?_, fun m hm => hstart.lastResult_hop hhop f hm⟩
  · exact ht.ring.cursor.trans (Nat.add_mod_right ..)
  · have hfirst := hstart.lastResult_first hm
    simpa only [wrsList, Nat.zero_add] using hfirst

end Sys2Proof.Machine
end

section
/-! PROOFS. The family 42_transform.md: the mode machine (R155), the forward transform (R156 to R166) with the
normalisation factors (R165), the inverse transform (R167, R168) and its read-back, and the transform pair in real
arithmetic (R160, R161). -/

namespace Sys2Proof.Machine

open Sys2Proof.Firmware

variable {s t : State} {i : Instr} {N : NumType}

/-! ## The mode machine (R155) -/

/-- The check a transform makes of the mode, in a ready block. -/
theorem firstError_transformChecks (h : Ready s) (m : Mode) :
    firstError (readyChecks s ++ [(s.mode != m, .state)]) = if s.mode = m then none else some .state := by
  rw [firstError_readyChecks_append h]
  simp

theorem exec_xfmFft (hh : s.halt = false) (hm : s.mode = .waveform) : exec .xfmFft s = .next (operation .xfmFft s) :=
  runChecked_of_none _ _ ((firstError_transformChecks ⟨hh, by simp [hm]⟩ _).trans (if_pos hm))

theorem exec_xfmIfft (hh : s.halt = false) (hm : s.mode = .spectrum) :
    exec .xfmIfft s = .next (operation .xfmIfft s) :=
  runChecked_of_none _ _ ((firstError_transformChecks ⟨hh, by simp [hm]⟩ _).trans (if_pos hm))

theorem exec_xfmFft_spectrum (hh : s.halt = false) (hm : s.mode = .spectrum) :
    exec .xfmFft s = .next (raiseError .state s) :=
  runChecked_of_some _ _ ((firstError_transformChecks ⟨hh, by simp [hm]⟩ _).trans (if_neg (by simp [hm])))

theorem exec_xfmIfft_waveform (hh : s.halt = false) (hm : s.mode = .waveform) :
    exec .xfmIfft s = .next (raiseError .state s) :=
  runChecked_of_some _ _ ((firstError_transformChecks ⟨hh, by simp [hm]⟩ _).trans (if_neg (by simp [hm])))

/-- A transform whose checks have passed has found its mode. -/
theorem mode_of_transform_checks {m : Mode} (h : firstError (readyChecks s ++ [(s.mode != m, .state)]) = none) :
    s.mode = m := by
  have hmode := firstError_eq_none.1 h (s.mode != m, .state) (by simp)
  simpa using hmode

/-- `INIT` configures the block or leaves it unconfigured. -/
theorem exec_init_mode (h : exec .init s = .next t) :
    t.mode = if configLegal s.params s.staged then .waveform else .unconf := by
  obtain ⟨-, hc, rfl⟩ | ⟨-, hc, rfl⟩ | ⟨hi, -⟩ | ⟨hi, -⟩ := exec_cases h
  · rw [hc]; rfl
  · rw [hc]; rfl
  · exact absurd rfl hi
  · exact absurd rfl hi

/-- Everything a command can do to the mode. -/
theorem exec_mode_cases (h : exec i s = .next t) :
    t.mode = s.mode ∨
    (i = .init ∧ t.mode = if configLegal s.params s.staged then .waveform else .unconf) ∨
    (i = .xfmFft ∧ s.mode = .waveform ∧ t.mode = .spectrum) ∨
    (i = .xfmIfft ∧ s.mode = .spectrum ∧ t.mode = .waveform) := by
  by_cases hi : i = .init
  · subst hi
    exact .inr (.inl ⟨rfl, exec_init_mode h⟩)
  obtain ⟨rfl, -⟩ | ⟨rfl, -⟩ | ⟨-, hc, rfl⟩ | ⟨-, c, -, -, rfl⟩ := exec_cases h
  · exact absurd rfl hi
  · exact absurd rfl hi
  · have hmode := (operation_frame (s := s) hi).mode
    split at hmode
    · exact .inr (.inr (.inl ⟨rfl, mode_of_transform_checks hc, hmode⟩))
    · exact .inr (.inr (.inr ⟨rfl, mode_of_transform_checks hc, hmode⟩))
    · exact .inl hmode
  · exact .inl rfl

/-- Settles O12, by everything a command can do to the mode and the two modes a transform can find. -/
theorem modeTransitions : Obligations.ModeTransitions := by
  unfold Obligations.ModeTransitions
  refine ⟨fun _ _ _ => exec_mode_cases, fun s => ?_, fun s hh hm => ⟨_, exec_xfmFft hh hm, rfl⟩,
    fun s hh hm => ⟨_, exec_xfmIfft hh hm, rfl⟩, fun s => exec_xfmFft_spectrum, fun s => exec_xfmIfft_waveform,
    fun s => Bool.or_true _, fun s rest hport => ⟨_, step_of_port_reset hport, rfl⟩⟩
  obtain ⟨t, h⟩ := exec_next .init s
  exact ⟨t, h, exec_init_mode h⟩

/-! ## The frame (R157, R159) -/

/-- The frame that `XFM.FFT` transforms. -/
def frame (s : State) : List NUM :=
  paddedFrame s.num s.act.paddedSize (s.inRing.readMany s.act.size) s.win

theorem Active.size_le_paddedSize (a : Active) : a.size ≤ a.paddedSize := by
  unfold Active.paddedSize; split <;> omega

theorem paddedFrame_length {p : Nat} {samples win : List NUM} (hwin : win.length = samples.length)
    (hp : samples.length ≤ p) : (paddedFrame N p samples win).length = p := by
  simp [paddedFrame, hwin, hp]

theorem readAt_paddedFrame_of_lt {p k : Nat} {samples win : List NUM} (hwin : win.length = samples.length)
    (hk : k < samples.length) : readAt (paddedFrame N p samples win) k = N.mul (readAt samples k) (readAt win k) := by
  have hk' : k < win.length := hwin ▸ hk
  simp [paddedFrame, readAt, List.getElem?_append, hk, hk']

theorem readAt_paddedFrame_of_le {p k : Nat} {samples win : List NUM} (hwin : win.length = samples.length)
    (hk : samples.length ≤ k) (hp : k < p) : readAt (paddedFrame N p samples win) k = N.zero := by
  have hpad : k - samples.length < p - samples.length := by omega
  simp [paddedFrame, readAt, List.getElem?_append, hwin, hk.not_gt, hpad]

theorem ConfiguredInv.readAt_readMany (c : ConfiguredInv s) {k : Nat} (hk : k < s.act.size) :
    readAt (s.inRing.readMany s.act.size) k = readAt s.inRing.buf ((s.inRing.r + k) % s.act.size) := by
  rw [Ring.readMany_eq (c.fits.inBuf ▸ c.geometry.sizePow2) (c.fits.inBuf ▸ c.inR), readAt_map_range hk, c.fits.inBuf]

/-! ## The derived arrays (R162 to R164) -/

/-- What is derived bin by bin from a transform reads as derived from the bin. -/
theorem readAt_map_rfft (f : NUM × NUM → NUM) {num : NumKind} {p k : Nat} {x : List NUM} (hk : k < p / 2 + 1) :
    readAt ((rfft num p x).map f) k = f (Config.rfftBin num p x k) := by
  rw [rfft, List.map_map, readAt_map_range hk, Function.comp_apply]

theorem readAt_map (f : NUM → NUM) {l : List NUM} {k : Nat} (hk : k < l.length) :
    readAt (l.map f) k = f (readAt l k) := by
  simp [readAt, hk]

theorem forwardTransform_amp_length (s : State) : (forwardTransform s).amp.length = s.act.numBins := by
  simp [forwardTransform, withMax, Active.numBins]

section Bin

variable {k : Nat} (hk : k < s.act.numBins)
include hk

theorem readAt_forwardTransform_spec :
    (readAt (forwardTransform s).specRe k, readAt (forwardTransform s).specIm k)
      = Config.rfftBin s.params.num s.act.paddedSize (frame s) k :=
  Prod.ext (readAt_map_rfft Prod.fst hk) (readAt_map_rfft Prod.snd hk)

theorem readAt_forwardTransform_amp : readAt (forwardTransform s).amp k =
    amplitude s.num s.act.numBins (readAt (forwardTransform s).specRe k) (readAt (forwardTransform s).specIm k) := by
  have hspec := readAt_forwardTransform_spec hk
  refine (readAt_map_rfft _ hk).trans ?_
  rw [← frame, ← hspec]

theorem readAt_forwardTransform_phs : readAt (forwardTransform s).phs k =
    phaseTurns s.num (readAt (forwardTransform s).specIm k) (readAt (forwardTransform s).specRe k) := by
  have hspec := readAt_forwardTransform_spec hk
  refine (readAt_map_rfft _ hk).trans ?_
  rw [← frame, ← hspec]

theorem readAt_forwardTransform_mag : readAt (forwardTransform s).mag k =
    decibels s.num s.act.eps (readAt (forwardTransform s).amp k) := by
  have hamp : k < (forwardTransform s).amp.length := by simpa [forwardTransform_amp_length] using hk
  exact readAt_map (decibels s.num s.act.eps) hamp

end Bin

/-- Settles O30: the frame is the one the model transforms, and each array is derived from its transform bin by bin. -/
theorem xfmFftTransformsFrame : Obligations.XfmFftTransformsFrame := by
  unfold Obligations.XfmFftTransformsFrame
  refine ⟨by decide, fun s => ⟨readyGuard_of_checks nofun rfl, exec_xfmFft_spectrum, fun hh hm hinv => ?_⟩⟩
  have c := hinv.configured (by simp [hm])
  have hfit := c.fits.forwardTransform
  have hread := Ring.readMany_length s.inRing s.act.size
  have hwin : s.win.length = (s.inRing.readMany s.act.size).length := c.fits.win.trans hread.symm
  refine ⟨frame s, operation .xfmFft s, ?_, fun k hk => ?_, fun k hk => ?_, exec_xfmFft hh hm, fun k hk => ?_,
    hfit.specRe, hfit.specIm, hfit.amp, hfit.phs, hfit.mag, ?_⟩
  · exact paddedFrame_length hwin (hread.le.trans s.act.size_le_paddedSize)
  · rw [frame, readAt_paddedFrame_of_lt hwin (hread.symm ▸ hk), c.readAt_readMany hk]
  · exact readAt_paddedFrame_of_le hwin (hread.le.trans hk)
  · exact ⟨readAt_forwardTransform_spec hk, readAt_forwardTransform_amp hk, readAt_forwardTransform_phs hk,
      readAt_forwardTransform_mag hk⟩
  · rw [← afterFrame_eq c.fits.inBuf c.geometry.sizePow2 c.inR]
    rfl

/-! ## The normalisation factors (R165) -/

/-- The greatest of the values is the start of the comparison or one of them. -/
theorem maxFrom_eq_or_mem (N : NumType) (m : NUM) (as : List NUM) : maxFrom N m as = m ∨ maxFrom N m as ∈ as := by
  induction as generalizing m with
  | nil => exact .inl rfl
  | cons a as ih =>
    rw [maxFrom, List.foldl_cons, ← maxFrom]
    rcases ih (if N.gt a m then a else m) with e | hmem
    · rw [e]
      split
      · exact .inr List.mem_cons_self
      · exact .inl rfl
    · exact .inr (List.mem_cons_of_mem _ hmem)

/-- The comparison never goes back. -/
theorem le_maxFrom (hN : N.Lawful) {m : NUM} (hm : N.le m m = true) (as : List NUM) :
    N.le m (maxFrom N m as) = true := by
  induction as generalizing m with
  | nil => exact hm
  | cons a as ih =>
    rw [maxFrom, List.foldl_cons, ← maxFrom]
    split
    · next hgt =>
      have hle := hN.le_of_lt hgt
      exact hN.le_trans _ _ _ hle (ih (hN.le_number _ _ hle).2)
    · exact ih hm

/-- No value is greater than the greatest; a NaN is not greater than anything. -/
theorem not_gt_maxFrom (hN : N.Lawful) {m a : NUM} (hm : N.le m m = true) {as : List NUM} (ha : a ∈ as) :
    N.gt a (maxFrom N m as) = false := by
  induction as generalizing m with
  | nil => cases ha
  | cons b as ih =>
    rw [maxFrom, List.foldl_cons, ← maxFrom]
    have hnext : N.le (if N.gt b m then b else m) (if N.gt b m then b else m) = true := by
      split
      · next hgt => exact (hN.le_number _ _ (hN.le_of_lt hgt)).2
      · exact hm
    rcases List.mem_cons.1 ha with rfl | ha
    · have hstep : N.gt a (if N.gt a m then a else m) = false := by
        split
        · exact hN.lt_irrefl a
        · next hgt => exact Bool.eq_false_iff.2 hgt
      exact Bool.eq_false_iff.2 fun h => Bool.eq_false_iff.1 hstep (hN.lt_of_le_of_lt (le_maxFrom hN hnext as) h)
    · exact ih hnext ha

/-- The amplitudes compared are those of the bins without DC and Nyquist. -/
theorem mem_inner_bins_iff {amp : List NUM} {b : Nat} (hlen : amp.length = b) {a : NUM} :
    a ∈ (amp.drop 1).take (b - 2) ↔ ∃ k, 1 ≤ k ∧ k ≤ b - 2 ∧ a = readAt amp k := by
  rw [List.mem_iff_getElem]
  constructor
  · rintro ⟨k, hk, rfl⟩
    simp only [List.length_take, List.length_drop] at hk
    have hin : k + 1 < amp.length := by omega
    exact ⟨k + 1, by omega, by omega, by simp [readAt, hin]⟩
  · rintro ⟨k, h1, h2, rfl⟩
    obtain ⟨k, rfl⟩ := Nat.exists_eq_add_of_le' h1
    have hin : k + 1 < amp.length := by omega
    exact ⟨k, by simp only [List.length_take, List.length_drop]; omega, by simp [readAt, hin]⟩

/-- Settles O31: the comparison over the inner bins, and the two outcomes of the check of its result. -/
theorem normalisationFactors : Obligations.NormalisationFactors := by
  unfold Obligations.NormalisationFactors
  intro s t hN hh hm h
  cases (exec_xfmFft hh hm).symm.trans h
  have hinner {a : NUM} := mem_inner_bins_iff (a := a) (forwardTransform_amp_length s)
  refine ⟨(maxFrom_eq_or_mem _ _ _).imp_right hinner.1, le_maxFrom hN hN.zero_le_zero _,
    fun k h1 h2 => not_gt_maxFrom hN hN.zero_le_zero (hinner.2 ⟨k, h1, h2, rfl⟩), fun hpos hfin => ?_, fun hnot => ?_⟩
  · have hgood := Bool.and_eq_true_iff.2 ⟨hpos, hfin⟩
    exact ⟨if_pos hgood, if_pos hgood⟩
  · have hbad := mt Bool.and_eq_true_iff.1 hnot
    exact ⟨if_neg hbad, if_neg hbad⟩

/-! ## The inverse transform (R167, R168) -/

@[simp] theorem inverseSamples_length (s : State) : (inverseSamples s).length = s.act.size := by
  unfold inverseSamples irfftFirst; split <;> simp

/-- Writing as many samples as the ring holds brings the write cursor round and leaves the `k`-th of them at the `k`-th
place from it. -/
theorem Ring.writeMany_whole {g : Ring} (h : isPow2 g.buf.length = true) (hw : g.w < g.buf.length) (f : Nat → NUM)
    {k : Nat} (hk : k < g.buf.length) :
    readAt (g.writeMany ((List.range g.buf.length).map f)).buf ((g.w + k) % g.buf.length) = f k := by
  have hholds := (Ring.holds_empty h hw fun j => f (j - g.w)).writeMany (m := g.buf.length) le_rfl
  simp only [Nat.add_sub_cancel_left] at hholds
  rw [hholds.sample (g.w + k) (Nat.le_add_right ..) (by omega), Nat.add_sub_cancel_left]

/-- The samples of a clean spectrum are the first inverse results, in order. -/
theorem inverseSamples_of_clean (h : s.specDirty = false) : inverseSamples s =
    (List.range s.act.size).map (Config.irfftSample s.params.num s.act.paddedSize s.specRe s.specIm) := by
  simp [inverseSamples, irfftFirst, h]

theorem readAt_inverseTransform (c : ConfiguredInv s) (hclean : s.specDirty = false) {k : Nat} (hk : k < s.act.size) :
    readAt (inverseTransform s).outRing.buf ((s.outRing.w + k) % s.act.size)
      = Config.irfftSample s.params.num s.act.paddedSize s.specRe s.specIm k := by
  have hw := c.outW
  have hpow := c.geometry.sizePow2
  rw [inverseTransform_outRing, inverseSamples_of_clean hclean]
  rw [← c.fits.outBuf] at hw hpow hk ⊢
  exact Ring.writeMany_whole hpow hw _ hk

/-- The whole output ring is overwritten, which brings the write cursor round. -/
theorem inverseTransform_outRing_w (c : ConfiguredInv s) : (inverseTransform s).outRing.w = s.outRing.w := by
  rw [inverseTransform_outRing, Ring.writeMany_w (c.fits.outBuf ▸ c.geometry.sizePow2) (c.fits.outBuf ▸ c.outW),
    inverseSamples_length, c.fits.outBuf, Nat.add_mod_right, Nat.mod_eq_of_lt c.outW]

theorem inverseTransform_outRing_r (s : State) : (inverseTransform s).outRing.r = s.outRing.r := by
  rw [inverseTransform_outRing, Ring.writeMany_r]

/-- Settles O32: a ring of `N` samples that takes `N` samples is overwritten as a whole, from its write cursor on. -/
theorem xfmIfftStreamsSamples : Obligations.XfmIfftStreamsSamples := by
  unfold Obligations.XfmIfftStreamsSamples
  refine ⟨by decide, fun s => ⟨readyGuard_of_checks nofun rfl, exec_xfmIfft_waveform, fun hh hm hinv => ?_⟩⟩
  have c := hinv.configured (by simp [hm])
  refine ⟨operation .xfmIfft s, exec_xfmIfft hh hm, c.fits.inverseTransform.outBuf, fun hclean =>
    ⟨fun k hk => readAt_inverseTransform c hclean hk, if_neg (by simp [hclean])⟩, ?_⟩
  rw [← inverseTransform_outRing_w c, ← inverseTransform_outRing_r s]
  rfl

/-! ## Read-back (R143, R144) -/

/-- The element under the read cursor after `k` reads. -/
theorem Ring.front_popMany {g : Ring} (h : isPow2 g.buf.length = true) (hr : g.r < g.buf.length) (k : Nat) :
    (g.popMany k).front = readAt g.buf ((g.r + k) % g.buf.length) := by
  rw [Ring.front, Ring.popMany_buf, Ring.popMany_r h hr]

theorem ready_issueAll_rdo (h : Ready s) (k : Nat) : Ready (issueAll (List.replicate k .rdo) s) := by
  induction k generalizing s with
  | zero => exact h
  | succ k ih =>
    rw [List.replicate_succ, issueAll_cons, issue_of_checks (i := .rdo) nofun (readyChecks_none.2 h)]
    exact ih (s := operation .rdo s) h

/-- The last of `k + 1` `RDO`s answers the element `k` places after the read cursor. -/
theorem lastResult_issueAll_rdo (h : Ready s) (k : Nat) :
    lastResult (issueAll (List.replicate (k + 1) .rdo) s) = (s.outRing.popMany k).front := by
  rw [List.replicate_succ', issueAll_append, issueAll_cons, issueAll_nil,
    issue_of_checks (i := .rdo) nofun (readyChecks_none.2 (ready_issueAll_rdo h k)), ← issueAll_rdo_outRing h]
  rfl

/-- Settles O33: the read cursor runs over the elements that the inverse transform has just written. -/
theorem outputRingReadback : Obligations.OutputRingReadback := by
  unfold Obligations.OutputRingReadback
  intro s hh hm hinv hclean hlevel k hk
  have c := hinv.configured (by simp [hm])
  have c' := c.inverseTransform
  have hlen : (inverseTransform s).outRing.buf.length = s.act.size := c'.fits.outBuf
  have hready : Ready (operation .xfmIfft s) := ⟨hh, nofun⟩
  have hissue : issue .xfmIfft s = operation .xfmIfft s := by rw [issue, exec_xfmIfft hh hm]
  calc lastResult (issueAll (.xfmIfft :: List.replicate (k + 1) .rdo) s)
      = ((inverseTransform s).outRing.popMany k).front := by
        rw [issueAll_cons, hissue, lastResult_issueAll_rdo hready]
        rfl
    _ = readAt (inverseTransform s).outRing.buf ((s.outRing.w + k) % s.act.size) := by
        rw [Ring.front_popMany (hlen ▸ c.geometry.sizePow2) (hlen ▸ c'.outR), inverseTransform_outRing_r, hlevel, hlen]
    _ = Config.irfftSample s.params.num s.act.paddedSize s.specRe s.specIm k := readAt_inverseTransform c hclean hk

end Sys2Proof.Machine

namespace Sys2Proof.Ideal

/-! ## The transform pair in real arithmetic (R160, R161) -/

variable {h : ℕ} {x re im : ℕ → ℝ}

/-- The angle that one bin turns between the samples `n` and `m` of a frame of `2h`. -/
noncomputable def angle (h m n : ℕ) : ℝ := 2 * Real.pi * ((m : ℝ) - n) / ((2 * h : ℕ) : ℝ)

/-- How much of a sample the inverse formula over the bins `0 .. h` takes to a place at the angle `θ` from it. -/
noncomputable def kernel (h : ℕ) (θ : ℝ) : ℝ :=
  1 + Real.cos (h * θ) + 2 * ∑ k ∈ Finset.Ico 1 h, Real.cos (k * θ)

/-- The sum of cosines in closed form. -/
theorem sin_half_mul_kernel (hh : 0 < h) (θ : ℝ) :
    Real.sin (θ / 2) * kernel h θ = Real.sin (h * θ) * Real.cos (θ / 2) := by
  have hsum : ∑ k ∈ Finset.range h, Real.cos (θ * k + 0) = 1 + ∑ k ∈ Finset.Ico 1 h, Real.cos (k * θ) := by
    rw [Finset.range_eq_Ico, Finset.sum_eq_sum_Ico_succ_bot hh]
    simp [mul_comm θ]
  have hclosed := Real.sin_mul_sum_cos h θ 0
  have hproduct := Real.two_mul_sin_mul_cos (h * θ / 2) ((h - 1) * θ / 2 + 0)
  have hdiff : h * θ / 2 - ((h - 1) * θ / 2 + 0) = θ / 2 := by ring
  have htotal : h * θ / 2 + ((h - 1) * θ / 2 + 0) = h * θ - θ / 2 := by ring
  rw [hdiff, htotal, Real.sin_sub] at hproduct
  rw [hsum] at hclosed
  rw [kernel]
  linear_combination 2 * hclosed + hproduct

theorem nat_mul_angle (hh : 0 < h) (m n : ℕ) : h * angle h m n = ((m - n : ℤ) : ℝ) * Real.pi := by
  have : (h : ℝ) ≠ 0 := by positivity
  rw [angle]
  push_cast
  field_simp

/-- The samples of a frame are orthogonal: nothing of one sample goes to the place of another. -/
theorem kernel_angle {m n : ℕ} (hm : m < 2 * h) (hn : n < 2 * h) :
    kernel h (angle h m n) = if m = n then ((2 * h : ℕ) : ℝ) else 0 := by
  have hh : 0 < h := by omega
  split
  · next e =>
    subst e
    have hzero : angle h m m = 0 := by simp [angle]
    simp only [kernel, hzero, mul_zero, Real.cos_zero, Finset.sum_const, Nat.card_Ico, nsmul_eq_mul, mul_one]
    rw [Nat.cast_pred hh]
    push_cast
    ring
  · next hne =>
    have hproduct : Real.sin (angle h m n / 2) * kernel h (angle h m n) = 0 := by
      rw [sin_half_mul_kernel hh, nat_mul_angle hh, Real.sin_int_mul_pi, zero_mul]
    refine (mul_eq_zero.1 hproduct).resolve_left fun hsin => ?_
    obtain ⟨c, hc⟩ := Real.sin_eq_zero_iff.1 hsin
    have hturns : ((c * (2 * h) : ℤ) : ℝ) = ((m - n : ℤ) : ℝ) := by
      refine mul_right_cancel₀ Real.pi_ne_zero ?_
      rw [← nat_mul_angle hh]
      push_cast
      linear_combination 2 * h * hc
    have hdvd : (2 * h : ℤ) ∣ m - n := ⟨c, by rw [← Int.cast_injective hturns, mul_comm]⟩
    have := Int.eq_zero_of_abs_lt_dvd hdvd (by rw [abs_lt]; omega)
    omega

/-- What bin `k` contributes at place `n`, from the samples it was computed from. -/
theorem IsForward.bin_turned_back (hf : IsForward (2 * h) x re im) {k : ℕ} (hk : k ≤ h) (n : ℕ) :
    re k * Real.cos (2 * Real.pi * k * n / (2 * h : ℕ)) - im k * Real.sin (2 * Real.pi * k * n / (2 * h : ℕ))
      = ∑ m ∈ Finset.range (2 * h), x m * Real.cos (k * angle h m n) := by
  obtain ⟨hre, him⟩ := hf k (by omega)
  rw [hre, him, neg_mul, sub_neg_eq_add, Finset.sum_mul, Finset.sum_mul, ← Finset.sum_add_distrib]
  refine Finset.sum_congr rfl fun m _ => ?_
  have hangle : k * angle h m n
      = 2 * Real.pi * k * m / (2 * h : ℕ) - 2 * Real.pi * k * n / (2 * h : ℕ) := by rw [angle]; ring
  rw [hangle, Real.cos_sub]
  ring

/-- The sum of the inverse formula, bin by bin, is the sum of the samples with their kernels. -/
theorem IsForward.inverse_sum (hf : IsForward (2 * h) x re im) (hh : 0 < h) (n : ℕ) :
    re 0 + (-1) ^ n * re h + 2 * ∑ k ∈ Finset.Ico 1 h,
        (re k * Real.cos (2 * Real.pi * k * n / (2 * h : ℕ)) - im k * Real.sin (2 * Real.pi * k * n / (2 * h : ℕ)))
      = ∑ m ∈ Finset.range (2 * h), x m * kernel h (angle h m n) := by
  have hdc : re 0 = ∑ m ∈ Finset.range (2 * h), x m := by simpa using hf.bin_turned_back h.zero_le n
  have hnyquist : (-1) ^ n * re h = ∑ m ∈ Finset.range (2 * h), x m * Real.cos (h * angle h m n) := by
    have hturn : 2 * Real.pi * h * n / (2 * h : ℕ) = n * Real.pi := by push_cast; field_simp
    rw [← hf.bin_turned_back le_rfl, hturn, Real.cos_nat_mul_pi, Real.sin_nat_mul_pi, mul_zero, sub_zero, mul_comm]
  have hbins : ∀ k ∈ Finset.Ico 1 h, _ := fun k hk => hf.bin_turned_back (Finset.mem_Ico.1 hk).2.le n
  rw [hdc, hnyquist, Finset.sum_congr rfl hbins, Finset.sum_comm, Finset.mul_sum, ← Finset.sum_add_distrib,
    ← Finset.sum_add_distrib]
  refine Finset.sum_congr rfl fun m _ => ?_
  rw [kernel, ← Finset.mul_sum]
  ring

/-- Settles O56: of all samples the kernel takes only the one at the same place, `P` times. -/
theorem realTransformInverse : Obligations.RealTransformInverse := by
  unfold Obligations.RealTransformInverse
  rintro _ x re im y hsize ⟨h, rfl⟩ hf hi n hn
  have hh : 0 < h := by omega
  have hP : ((2 * h : ℕ) : ℝ) ≠ 0 := by positivity
  have hhalf : 2 * h / 2 = h := Nat.mul_div_cancel_left h two_pos
  have hkernel : ∀ m ∈ Finset.range (2 * h), x m * kernel h (angle h m n)
      = if n = m then x m * ((2 * h : ℕ) : ℝ) else 0 := fun m hm => by
    rw [kernel_angle (Finset.mem_range.1 hm) hn, mul_ite, mul_zero, if_congr eq_comm rfl rfl]
  rw [hi n hn, hhalf, hf.inverse_sum hh, Finset.sum_congr rfl hkernel, Finset.sum_ite_eq,
    if_pos (Finset.mem_range.2 hn)]
  field_simp

end Sys2Proof.Ideal
end

section
/-! PROOFS. The family 43_bin_access.md: the arrays by selector (R180), `GETBIN` (R181) and `SETBIN` (R182 to R185). -/

namespace Sys2Proof.Machine

variable {s : State} {a a' : BinArray} {k : BitVec 20} {v : NUM}

/-! ## The array a selector names (R180) -/

theorem binLen_eq_ite (s : State) (a : BinArray) :
    binLen s a = if a = .win then s.act.size else s.act.numBins := by
  cases a <;> rfl

/-- In a configured block every array has the length its selector stands for. -/
theorem ArraysFit.binArray_length (h : ArraysFit s) (a : BinArray) : (binArray s a).length = binLen s a := by
  cases a with
  | amp => exact h.amp
  | mag => exact h.mag
  | phs => exact h.phs
  | frq => exact h.frq
  | mthr => exact h.mthr
  | pthr => exact h.pthr
  | win => exact h.win

theorem arrayReadOnly_iff : arrayReadOnly a = true ↔ a = .frq ∨ a = .win := by
  cases a <;> decide

/-- A writable array has `B` elements. -/
theorem binLen_of_writable (h : ¬ arrayReadOnly a = true) (s : State) : binLen s a = s.act.numBins := by
  rw [binLen_eq_ite, if_neg fun e => h (arrayReadOnly_iff.2 (.inr e))]

@[simp] theorem binArray_respondOk (res : Word) (s : State) (a : BinArray) :
    binArray (respondOk res s) a = binArray s a := by
  cases a <;> rfl

/-! ## `GETBIN` (R181) -/

/-- The one check `GETBIN` makes in a ready block. -/
theorem firstError_getbin (h : Ready s) :
    firstError (checks (.getbin a k) s) = if binLen s a ≤ k.toNat then some .index else none := by
  rw [checks, firstError_readyChecks_append h]
  simp [indexCheck]

/-- Settles O34: the index check against the length of the selected array, then the element itself. -/
theorem getbinReadsElement : Obligations.GetbinReadsElement := by
  unfold Obligations.GetbinReadsElement
  intro a k s
  refine ⟨congrArg (fun h => [h]) (mkHdr_eq_hdr _ _ _), readyGuard_of_checks nofun rfl, ?_⟩
  rw [← binLen_eq_ite, exec_eq (i := .getbin a k) nofun]
  refine ⟨fun h hout => ?_, fun h hin => ?_⟩
  · exact runChecked_of_some _ _ ((firstError_getbin h).trans (if_pos hout))
  · rw [runChecked_of_none _ _ ((firstError_getbin h).trans (if_neg hin.not_ge))]
    cases a <;> rfl

/-! ## What `SETBIN` stores (R182 to R184) -/

theorem binArray_storeBin_same (h : ¬ arrayReadOnly a = true) (i : Nat) (v : NUM) (s : State) :
    binArray (storeBin a i v s) a = writeAt (binArray s a) i v := by
  cases a with
  | frq | win => exact absurd rfl h
  | _ => rfl

/-- A write to one array leaves every other array. -/
theorem binArray_storeBin_ne (h : a' ≠ a) (i : Nat) (v : NUM) (s : State) :
    binArray (storeBin a i v s) a' = binArray s a' := by
  cases a <;> cases a' <;> first | rfl | exact absurd rfl h

/-- The element written reads back the value. -/
theorem readAt_storeBin_same (hfits : ArraysFit s) (ha : ¬ arrayReadOnly a = true) {i : Nat} (hi : i < s.act.numBins)
    (v : NUM) : readAt (binArray (storeBin a i v s) a) i = v := by
  rw [binArray_storeBin_same ha]
  exact readAt_writeAt_same v (by rwa [hfits.binArray_length, binLen_of_writable ha])

/-- Every other element, of the same array and of the others, reads as before. -/
theorem readAt_storeBin_ne (ha : ¬ arrayReadOnly a = true) {i i' : Nat} (h : (a', i') ≠ (a, i)) (v : NUM) (s : State) :
    readAt (binArray (storeBin a i v s) a') i' = readAt (binArray s a') i' := by
  by_cases e : a' = a
  · subst e
    rw [binArray_storeBin_same ha]
    exact readAt_writeAt_ne v fun hi => h (by rw [hi])
  · rw [binArray_storeBin_ne e]

theorem dirties_eq (a : BinArray) : dirties a = (a == .amp || a == .mag || a == .phs) := by
  cases a <;> rfl

/-- A store changes the five writable arrays and `SPECDIRTY` only. -/
theorem storeBin_frame (a : BinArray) (i : Nat) (v : NUM) (s : State) : storeBin a i v s = { s with
    amp := (storeBin a i v s).amp, mag := (storeBin a i v s).mag, phs := (storeBin a i v s).phs
    mthr := (storeBin a i v s).mthr, pthr := (storeBin a i v s).pthr
    specDirty := (storeBin a i v s).specDirty } := by
  cases a <;> rfl

/-! ## `SETBIN` (R182, R184) -/

/-- The two checks `SETBIN` makes in a ready block: the array before the index. -/
theorem firstError_setbin (h : Ready s) : firstError (checks (.setbin a k v) s) =
    if arrayReadOnly a then some .rdonly else if s.act.numBins ≤ k.toNat then some .index else none := by
  rw [checks, firstError_readyChecks_append h]
  simp [indexCheck]

/-- Settles O35: the checks one after the other, then the store, element by element. -/
theorem setbinWritesElement : Obligations.SetbinWritesElement := by
  unfold Obligations.SetbinWritesElement
  intro a k v s
  refine ⟨congrArg (fun h => [h, v]) (mkHdr_eq_hdr _ _ _), readyGuard_of_checks nofun rfl, ?_⟩
  rw [exec_eq (i := .setbin a k v) nofun, ← arrayReadOnly_iff]
  refine ⟨fun h ha => ?_, fun h ha hout => ?_, fun h hinv ha hin => ?_⟩
  · exact runChecked_of_some _ _ ((firstError_setbin h).trans (if_pos ha))
  · exact runChecked_of_some _ _ ((firstError_setbin h).trans ((if_neg ha).trans (if_pos hout)))
  · have hpass : firstError (checks (.setbin a k v) s) = none :=
      (firstError_setbin h).trans ((if_neg ha).trans (if_neg hin.not_ge))
    have hfits := (hinv.configured h.2).fits
    refine ⟨_, runChecked_of_none _ _ hpass, ?_, fun a' k' hne => ?_, ?_, ?_⟩
    · rw [operation, binArray_respondOk]
      exact readAt_storeBin_same hfits ha hin v
    · rw [operation, binArray_respondOk]
      exact readAt_storeBin_ne ha hne v s
    · rw [← dirties_eq]
      rfl
    · exact congrArg (respondOk 0) (storeBin_frame a k.toNat v s)

end Sys2Proof.Machine
end

section
/-! PROOFS. The family 44_wavetable.md: what `WTGEN` generates (R191 to R193) and what `GETWT` reads (R194). -/

namespace Sys2Proof.Machine

variable {s : State} {force : Bool} {kind : BitVec 8} {k : BitVec 20}

/-! ## The generated table (R191 to R193) -/

/-- A sample of the generated table is the one `WaveGen` gives for the kind. -/
theorem readAt_regenerate_wt (kind : BitVec 8) {n : Nat} (h : n < s.act.tabLen) :
    readAt (regenerate (kind.setWidth 32) s).wt n = waveGen s.params kind.toNat s.act.tabLen n := by
  rw [regenerate_wt, BitVec.toNat_setWidth_of_le (by decide), readAt_waveTable h]

/-- The parameters and the geometry, all that a table depends on, stay: a second generation gives the same table. -/
theorem regenerate_regenerate_wt (w res : Word) (s : State) :
    (regenerate w (respondOk res (regenerate w s))).wt = (regenerate w s).wt := rfl

/-! ## `WTGEN` (R192) -/

/-- The checks of `WTGEN`: the kind stands in the packet and is tested before the state of the block. -/
theorem firstError_wtgen (force : Bool) (kind : BitVec 8) (s : State) : firstError (checks (.wtgen force kind) s) =
    if kind = 0 then firstError (readyChecks s) else some .illegal := by
  have hdefined : Config.waveKindDefined kind.toNat = true ↔ kind = 0 := by
    rw [Config.waveKindDefined, beq_iff_eq, toNat_eq_zero_iff]
  by_cases h : kind = 0
  · rw [if_pos h, checks, hdefined.2 h]
    rfl
  · rw [if_neg h, checks, Bool.eq_false_iff.2 (mt hdefined.1 h)]
    rfl

theorem exec_wtgen_undefined (h : kind ≠ 0) (force : Bool) (s : State) :
    exec (.wtgen force kind) s = .next (raiseError .illegal s) := by
  rw [exec_eq (i := .wtgen force kind) nofun, runChecked_of_some _ _ ((firstError_wtgen force kind s).trans (if_neg h))]

/-- The one kind defined, 0 `SINE`, passes in a ready block. -/
theorem exec_wtgen_sine (h : Ready s) (force : Bool) :
    exec (.wtgen force 0) s = .next (operation (.wtgen force 0) s) := by
  have hpass : firstError (checks (.wtgen force 0) s) = none :=
    (firstError_wtgen force 0 s).trans ((if_pos rfl).trans (readyChecks_none.2 h))
  rw [exec_eq (i := .wtgen force 0) nofun, runChecked_of_none _ _ hpass]

theorem readyGuard_wtgen_sine (force : Bool) (s : State) : ReadyGuard (.wtgen force 0) s := by
  unfold ReadyGuard
  rw [exec_eq (i := .wtgen force 0) nofun]
  refine ⟨fun hh => runChecked_of_some _ _ ?_, fun hh hm => runChecked_of_some _ _ ?_⟩
  · simp [firstError_wtgen, readyChecks, haltedCheck, hh]
  · simp [firstError_wtgen, readyChecks, haltedCheck, hh, hm]

/-- The table held is of the kind asked for, and nothing forces a new one. -/
theorem operation_wtgen_held (hvalid : s.wtValid = true) (hkind : s.wtKind = kind.setWidth 32) :
    operation (.wtgen false kind) s = respondOk 0 s := by
  simp [operation, hvalid, hkind]

theorem operation_wtgen_anew (h : ¬ (s.wtValid = true ∧ s.wtKind = kind.setWidth 32 ∧ force = false)) :
    operation (.wtgen force kind) s = respondOk 1 (regenerate (kind.setWidth 32) s) := by
  refine if_neg fun held => h ?_
  simpa [and_assoc] using held

/-- After a generation neither of the two things `WTGEN` can do changes the table: keeping it, or generating it again. -/
theorem operation_wtgen_again_wt (force : Bool) (kind : BitVec 8) (res : Word) (s : State) :
    (operation (.wtgen force kind) (respondOk res (regenerate (kind.setWidth 32) s))).wt
      = (regenerate (kind.setWidth 32) s).wt := by
  obtain ⟨-, e⟩ | e := operation_wtgen_cases force kind (respondOk res (regenerate (kind.setWidth 32) s))
  · rw [e, respondOk_wt, respondOk_wt]
  · rw [e, respondOk_wt, regenerate_regenerate_wt]

/-- Settles O37: the kind is tested first; for the kind defined, the table held is kept or a new one generated, element by
element. -/
theorem wtgenGeneratesTable : Obligations.WtgenGeneratesTable := by
  unfold Obligations.WtgenGeneratesTable
  intro force kind s N
  refine ⟨?_, fun hkind => exec_wtgen_undefined hkind force s, ?_⟩
  · refine congrArg (fun h => [h]) ((mkHdr_eq_hdr _ _ _).trans ?_)
    rw [BitVec.toNat_setWidth_of_le (by decide)]
    cases force <;> rfl
  rintro rfl
  refine ⟨readyGuard_wtgen_sine force s, fun h hvalid hheld hforce => ?_, fun h hanew => ?_⟩
  · subst hforce
    rw [exec_wtgen_sine h, operation_wtgen_held hvalid hheld]
    rfl
  · rw [exec_wtgen_sine h, operation_wtgen_anew hanew]
    refine ⟨_, rfl, waveTable_length _ _ _, fun n hn => ?_, readAt_waveTable_guard, rfl, fun force' => ?_⟩
    · refine (readAt_regenerate_wt 0 hn).trans ?_
      cases hw : s.params.waveGen with
      | formula => exact waveGen_formula hw _ _ _
      | other => exact waveGen_other hw _ _ _
    · exact ⟨_, exec_wtgen_sine (s := respondOk 1 (regenerate _ s)) h force', operation_wtgen_again_wt force' 0 1 s⟩

/-! ## `GETWT` (R194) -/

/-- The one check `GETWT` makes in a ready block: index `T`, the guard point, passes. -/
theorem firstError_getwt (h : Ready s) :
    firstError (checks (.getwt k) s) = if s.act.tabLen < k.toNat then some .index else none := by
  rw [checks, firstError_readyChecks_append h]
  simp [indexCheck]

/-- Settles O38: the index check against the `T + 1` elements of the table, then the element itself. -/
theorem getwtReadsTable : Obligations.GetwtReadsTable := by
  unfold Obligations.GetwtReadsTable
  intro k s
  refine ⟨congrArg (fun h => [h]) (mkHdr_eq_hdr _ _ _), readyGuard_of_checks nofun rfl, ?_⟩
  rw [exec_eq (i := .getwt k) nofun]
  refine ⟨fun h hout => ?_, fun h hin => ?_⟩
  · exact runChecked_of_some _ _ ((firstError_getwt h).trans (if_pos hout))
  · exact runChecked_of_none _ _ ((firstError_getwt h).trans (if_neg hin.not_gt))

end Sys2Proof.Machine
end

section
/-! PROOFS. The family 45_oscillator.md: the checks of the slot commands (R201), `OSTART` (R202), `OSTOP` (R203), `OUPD`
(R204), `ONEXT` (R205, R206), `OACT` (R207), `GETOSC` (R208), the glide law (R209) and the phase invariant (R210). -/

namespace Sys2Proof.Machine

open Sys2Proof.Firmware

variable {s t : State} {i : Instr} {j : BitVec 20} {a f p : NUM} {N : NumType} {o : Osc}

/-! ## A slot after a write -/

/-- A slot reads back what was written to it. -/
theorem slot_setSlot_same {k : Nat} (h : k < s.osc.length) (o : Osc) : (s.setSlot k o).slot k = o := by
  simp [State.slot, h]

/-- A write past the bank changes nothing. -/
theorem setSlot_of_length_le {k : Nat} (h : s.osc.length ≤ k) (o : Osc) : s.setSlot k o = s := by
  rw [State.setSlot, List.set_eq_of_length_le h]

/-- A write that keeps the phase of its slot keeps the phase of every slot. -/
theorem slot_setSlot_ph {l : Nat} (h : o.ph = (s.slot l).ph) (k : Nat) :
    ((s.setSlot l o).slot k).ph = (s.slot k).ph := by
  by_cases hk : k = l
  · subst hk
    rcases Nat.lt_or_ge k s.osc.length with hlen | hlen
    · rw [slot_setSlot_same hlen, h]
    · rw [setSlot_of_length_le hlen]
  · rw [slot_setSlot_ne o hk]

/-- In a ready block with the invariant the bank has every slot below `M` (10_state.md R58). -/
theorem Inv.slot_lt_length (h : Inv s) (hs : Ready s) {k : Nat} (hk : k < s.act.slots) : k < s.osc.length :=
  hk.trans_eq (h.configured hs.2).fits.osc.symm

theorem slot_mem_osc {k : Nat} (h : k < s.osc.length) : s.slot k ∈ s.osc := by
  simp [State.slot, h]

/-! ## The checks of a slot command (R201) -/

section SlotCommand

variable {cs : List (Bool × Status)} (hi : i ≠ .init) (hc : checks i s = slotChecks s j ++ cs)

include hi hc

theorem readyGuard_slot : ReadyGuard i s := readyGuard_of_checks hi (hc.trans (List.append_assoc _ _ _))

theorem exec_slot_outside (h : Ready s) (hj : s.act.slots ≤ j.toNat) : exec i s = .next (raiseError .index s) := by
  rw [exec_eq hi, hc, slotChecks, List.append_assoc]
  refine runChecked_of_some _ _ ?_
  rw [firstError_readyChecks_append h]
  simp [indexCheck, hj]

/-- For a slot that exists, what decides are the checks after the index. -/
theorem exec_slot_inside (h : Ready s) (hj : j.toNat < s.act.slots) :
    exec i s = runChecked cs s (operation i s) := by
  have hchecks : firstError (checks i s) = firstError cs := by
    rw [hc, slotChecks, List.append_assoc, firstError_readyChecks_append h]
    simp [indexCheck, hj]
  rw [exec_eq hi, runChecked, runChecked, hchecks]

end SlotCommand

/-- The first operand of `OSTART` or `OUPD` that is refused. -/
theorem firstError_oscOperandChecks : firstError (oscOperandChecks s a f p) =
    if s.num.isFinite a = false then some .value
    else if ¬ freqLegal s.num (s.act.nyquist s.num) f = true then some .freq
    else if s.num.isFinite p = false then some .value else none := by
  simp [oscOperandChecks]

section OperandCommand

variable (hi : i ≠ .init) (hc : checks i s = slotChecks s j ++ oscOperandChecks s a f p) (h : Ready s)
  (hj : j.toNat < s.act.slots)

include hi hc h hj

theorem exec_amp_refused (ha : s.num.isFinite a = false) : exec i s = .next (raiseError .value s) := by
  rw [exec_slot_inside hi hc h hj]
  exact runChecked_of_some _ _ (by rw [firstError_oscOperandChecks, if_pos ha])

theorem exec_freq_refused (ha : s.num.isFinite a = true) (hf : ¬ freqLegal s.num (s.act.nyquist s.num) f = true) :
    exec i s = .next (raiseError .freq s) := by
  rw [exec_slot_inside hi hc h hj]
  exact runChecked_of_some _ _ (by rw [firstError_oscOperandChecks, if_neg (by simp [ha]), if_pos hf])

theorem exec_phase_refused (ha : s.num.isFinite a = true) (hf : freqLegal s.num (s.act.nyquist s.num) f = true)
    (hp : s.num.isFinite p = false) : exec i s = .next (raiseError .value s) := by
  rw [exec_slot_inside hi hc h hj]
  exact runChecked_of_some _ _
    (by rw [firstError_oscOperandChecks, if_neg (by simp [ha]), if_neg (not_not.2 hf), if_pos hp])

theorem exec_operands_pass (ha : s.num.isFinite a = true) (hf : freqLegal s.num (s.act.nyquist s.num) f = true)
    (hp : s.num.isFinite p = true) : exec i s = .next (operation i s) := by
  rw [exec_slot_inside hi hc h hj]
  exact runChecked_of_none _ _ (oscOperandChecks_none.2 ⟨ha, hf, hp⟩)

end OperandCommand

/-! ## `OSTART` (R202) -/

theorem phaseGuard_eq (N : NumType) (m : Nat) (x : NUM) :
    phaseGuard N m x = if N.lt x (N.ofNat m) = false ∨ N.lt x N.zero = true then N.zero else x := by
  simp [phaseGuard]

/-- Settles O39: the checks one after the other, then the slot `start` leaves. -/
theorem ostartSetsSlot : Obligations.OstartSetsSlot := by
  unfold Obligations.OstartSetsSlot
  intro j a f p s N
  have hi : Instr.ostart j a f p ≠ .init := nofun
  refine ⟨congrArg (fun h => [h, a, f, p]) (mkHdr_eq_hdr _ _ _), readyGuard_slot hi rfl, ?_⟩
  intro freqOk
  have hfreq : freqLegal N (s.act.nyquist N) f = true ↔ freqOk := freqLegal_iff
  refine ⟨exec_slot_outside hi rfl, fun h hj => ⟨exec_amp_refused hi rfl h hj,
    fun ha hf => exec_freq_refused hi rfl h hj ha (mt hfreq.1 hf),
    fun ha hf => exec_phase_refused hi rfl h hj ha (hfreq.2 hf), fun hinv ha hf hp => ?_⟩⟩
  refine ⟨_, exec_operands_pass hi rfl h hj ha (hfreq.2 hf) hp, ?_, fun k hk => slot_setSlot_ne _ hk, rfl⟩
  intro x
  rw [← phaseGuard_eq]
  exact slot_setSlot_same (hinv.slot_lt_length h hj) _

/-! ## `OSTOP` (R203) -/

/-- Settles O40: the index check, then the slot `stop` leaves. -/
theorem ostopSilencesSlot : Obligations.OstopSilencesSlot := by
  unfold Obligations.OstopSilencesSlot
  intro j s N
  have hi : Instr.ostop j ≠ .init := nofun
  have hc : checks (.ostop j) s = slotChecks s j ++ [] := rfl
  refine ⟨congrArg (fun h => [h]) (mkHdr_eq_hdr _ _ _), readyGuard_slot hi hc, exec_slot_outside hi hc,
    fun h hinv hj => ?_⟩
  exact ⟨_, exec_slot_inside hi hc h hj, slot_setSlot_same (hinv.slot_lt_length h hj) _,
    fun k hk => slot_setSlot_ne _ hk, rfl⟩

/-! ## `OUPD` (R204) -/

/-- The glide that `update` sets up. -/
theorem Osc.update_of_ne_zero {n : Word} (h : n ≠ 0) (o : Osc) (N : NumType) (a f p : NUM) : o.update N a f p n =
    { o with
      tAmp := a, tFreq := f, tPhase := p
      ampStep := N.div (N.sub a o.amp) (N.ofNat n.toNat)
      freqStep := N.div (N.sub f o.freq) (N.ofNat n.toNat)
      stepsLeft := n } :=
  if_neg h

/-- What `OUPD` leaves of its slot. -/
theorem slot_oupd (h : j.toNat < s.osc.length) (a f p : NUM) (n : Word) :
    (operation (.oupd j a f p n) s).slot j.toNat = (s.slot j.toNat).update s.num a f p n :=
  slot_setSlot_same h _

/-- Settles O41: the checks of `OSTART`, then the slot `update` leaves. -/
theorem oupdSetsGlide : Obligations.OupdSetsGlide := by
  unfold Obligations.OupdSetsGlide
  intro j a f p n s N
  have hi : Instr.oupd j a f p n ≠ .init := nofun
  refine ⟨congrArg (fun h => [h, a, f, p, n]) (mkHdr_eq_hdr _ _ _), readyGuard_slot hi rfl, ?_⟩
  intro freqOk
  have hfreq : freqLegal N (s.act.nyquist N) f = true ↔ freqOk := freqLegal_iff
  refine ⟨exec_slot_outside hi rfl, fun h hj => ⟨exec_amp_refused hi rfl h hj,
    fun ha hf => exec_freq_refused hi rfl h hj ha (mt hfreq.1 hf),
    fun ha hf => exec_phase_refused hi rfl h hj ha (hfreq.2 hf), fun hinv ha hf hp => ?_⟩⟩
  exact ⟨_, exec_operands_pass hi rfl h hj ha (hfreq.2 hf) hp, slot_oupd (hinv.slot_lt_length h hj) a f p n,
    fun k hk => slot_setSlot_ne _ hk, rfl⟩

/-! ## `ONEXT` (R205, R206) -/

theorem exec_onext (h : Ready s) (hj : j.toNat < s.act.slots) : exec (.onext j) s = .next (operation (.onext j) s) :=
  exec_slot_inside (cs := []) nofun rfl h hj

/-- What `ONEXT` leaves of its slot. -/
theorem slot_onext (h : j.toNat < s.osc.length) : (operation (.onext j) s).slot j.toNat =
    (s.slot j.toNat).advance s.num s.act.tabLen s.act.sampleRate :=
  slot_setSlot_same h _

@[simp] theorem Osc.advance_ph (N : NumType) (m : Nat) (fs : NUM) (o : Osc) :
    (o.advance N m fs).ph = o.nextPhase N m fs := by
  obtain ⟨-, e⟩ | ⟨-, e⟩ | ⟨-, e⟩ := o.advance_cases N m fs <;> rw [e]

section Advance

variable (N : NumType) (m : Nat) (fs : NUM)

theorem Osc.advance_of_no_step (h : o.stepsLeft = 0) : o.advance N m fs = { o with ph := o.nextPhase N m fs } := by
  obtain ⟨-, e⟩ | ⟨h1, -⟩ | ⟨h2, -⟩ := o.advance_cases N m fs
  · exact e
  · exact absurd (h.symm.trans h1) (by decide)
  · exact absurd h2 (by simp [h])

theorem Osc.advance_of_last_step (h : o.stepsLeft = 1) : o.advance N m fs =
    { o with ph := o.nextPhase N m fs, stepsLeft := 0, amp := o.tAmp, freq := o.tFreq } := by
  obtain ⟨h0, -⟩ | ⟨-, e⟩ | ⟨h2, -⟩ := o.advance_cases N m fs
  · exact absurd (h0.symm.trans h) (by decide)
  · exact e
  · exact absurd h2 (by simp [h])

theorem Osc.advance_of_step (h : 2 ≤ o.stepsLeft.toNat) : o.advance N m fs =
    { o with
      ph := o.nextPhase N m fs
      stepsLeft := o.stepsLeft - 1
      amp := N.add o.amp o.ampStep
      freq := N.add o.freq o.freqStep } := by
  obtain ⟨h0, -⟩ | ⟨h1, -⟩ | ⟨-, e⟩ := o.advance_cases N m fs
  · exact absurd h (by simp [h0])
  · exact absurd h (by simp [h1])
  · exact e

end Advance

theorem phaseInTable_iff {m : Nat} {x : NUM} :
    phaseInTable N m x = true ↔ N.le N.zero x = true ∧ N.lt x (N.ofNat m) = true :=
  Bool.and_eq_true_iff

/-- The phase of a slot is a position in the table, whose floor is a table index (R210). -/
theorem ConfiguredInv.phase_index (c : ConfiguredInv s) (hp : s.params.Legal) (ho : o ∈ s.osc) :
    (s.num.le s.num.zero o.ph = true ∧ s.num.lt o.ph (s.num.ofNat s.act.tabLen) = true) ∧
    0 ≤ s.num.floor o.ph ∧ s.num.floor o.ph < s.act.tabLen := by
  obtain ⟨hle, hlt⟩ := phaseInTable_iff.1 (c.phase o ho)
  exact ⟨⟨hle, hlt⟩, hp.num.floor_index _ _ (c.geometry.tabLen_bounds hp).2 hle hlt⟩

/-- Settles O42: the index is the floor of the phase; the three ways of a glide step are those of `Osc.advance`. -/
theorem onextRendersSample : Obligations.OnextRendersSample := by
  unfold Obligations.OnextRendersSample
  intro j s
  have hi : Instr.onext j ≠ .init := nofun
  have hc : checks (.onext j) s = slotChecks s j ++ [] := rfl
  refine ⟨congrArg (fun h => [h]) (mkHdr_eq_hdr _ _ _), readyGuard_slot hi hc, exec_slot_outside hi hc,
    fun h hinv hj => ?_⟩
  have hlen := hinv.slot_lt_length h hj
  obtain ⟨-, hfloor, hindex⟩ := (hinv.configured h.2).phase_index hinv.params (slot_mem_osc hlen)
  have hslot := slot_onext hlen
  refine ⟨(s.num.floor (s.slot j.toNat).ph).toNat, operation (.onext j) s, ?_⟩
  refine ⟨(Int.toNat_of_nonneg hfloor).symm, (Int.toNat_lt hfloor).2 hindex, exec_onext h hj, rfl, ?_,
    fun h0 => ?_, fun h1 => ?_, fun h2 => ?_, fun k hk => slot_setSlot_ne _ hk, rfl⟩
  · intro x x'
    rw [hslot, Osc.advance_ph, ← phaseGuard_eq]
    rfl
  all_goals rw [hslot, Osc.advance_ph]
  · exact Osc.advance_of_no_step _ _ _ h0
  · exact Osc.advance_of_last_step _ _ _ h1
  · exact Osc.advance_of_step _ _ _ h2

/-! ## `OACT` (R207) and `GETOSC` (R208) -/

/-- Settles O43: the index check, then the one bit. -/
theorem oactWritesActiveBit : Obligations.OactWritesActiveBit := by
  unfold Obligations.OactWritesActiveBit
  intro on j s
  have hi : Instr.oact on j ≠ .init := nofun
  have hc : checks (.oact on j) s = slotChecks s j ++ [] := rfl
  refine ⟨congrArg (fun h => [h]) ((mkHdr_eq_hdr _ _ _).trans (by cases on <;> rfl)), readyGuard_slot hi hc,
    exec_slot_outside hi hc, fun h hinv hj => ?_⟩
  exact ⟨_, exec_slot_inside hi hc h hj, slot_setSlot_same (hinv.slot_lt_length h hj) _,
    fun k hk => slot_setSlot_ne _ hk, rfl⟩

/-- Settles O44: the index check, then the field, selector by selector. -/
theorem getoscReadsField : Obligations.GetoscReadsField := by
  unfold Obligations.GetoscReadsField
  intro fld j s
  have hi : Instr.getosc fld j ≠ .init := nofun
  have hc : checks (.getosc fld j) s = slotChecks s j ++ [] := rfl
  refine ⟨congrArg (fun h => [h]) (mkHdr_eq_hdr _ _ _), readyGuard_slot hi hc, exec_slot_outside hi hc,
    fun h hj => ?_⟩
  rw [exec_slot_inside hi hc h hj]
  cases fld <;> rfl

/-! ## The glide law (R209) -/

/-- `ONEXT`s of one slot in a row make as many calls of `Next` on it. -/
theorem slot_issueAll_onext (h : Ready s) (hj : j.toNat < s.act.slots) (hlen : j.toNat < s.osc.length) (k : Nat) :
    (issueAll (List.replicate k (.onext j)) s).slot j.toNat =
      (Osc.advance s.num s.act.tabLen s.act.sampleRate)^[k] (s.slot j.toNat) := by
  induction k generalizing s with
  | zero => rfl
  | succ k ih =>
    have hissue : issue (.onext j) s = operation (.onext j) s := by rw [issue, exec_onext h hj]
    have hbank : j.toNat < (operation (.onext j) s).osc.length := hlen.trans_eq (List.length_set ..).symm
    rw [List.replicate_succ, issueAll_cons, hissue, ih (s := operation (.onext j) s) h hj hbank, slot_onext hlen,
      Function.iterate_succ_apply]
    rfl

/-- While steps are left, each call of `Next` adds the steps once more. -/
theorem Osc.iterate_advance_of_lt (m : Nat) (fs : NUM) {k : Nat} (h : k < o.stepsLeft.toNat) :
    ∃ ph left, (Osc.advance N m fs)^[k] o =
      { o with
        ph := ph, stepsLeft := left
        amp := (N.add · o.ampStep)^[k] o.amp
        freq := (N.add · o.freqStep)^[k] o.freq } ∧ left.toNat = o.stepsLeft.toNat - k := by
  induction k with
  | zero => exact ⟨o.ph, o.stepsLeft, rfl, rfl⟩
  | succ k ih =>
    obtain ⟨ph, left, e, hleft⟩ := ih (by omega)
    have two : 2 ≤ left.toNat := by omega
    simp only [Function.iterate_succ_apply', e]
    exact ⟨_, _, Osc.advance_of_step N m fs two, by bv_omega⟩

/-- From the last step on, the slot holds its targets. -/
theorem Osc.iterate_advance_of_le (m : Nat) (fs : NUM) {k : Nat} (hpos : 1 ≤ o.stepsLeft.toNat)
    (h : o.stepsLeft.toNat ≤ k) :
    ∃ ph, (Osc.advance N m fs)^[k] o = { o with ph := ph, stepsLeft := 0, amp := o.tAmp, freq := o.tFreq } := by
  induction k, h using Nat.le_induction with
  | base =>
    obtain ⟨n, hn⟩ := Nat.exists_eq_add_of_le' hpos
    obtain ⟨ph, left, e, hleft⟩ := Osc.iterate_advance_of_lt (N := N) m fs (o := o) (k := n) (by omega)
    have one : left = 1 := by bv_omega
    rw [hn, Function.iterate_succ_apply', e]
    exact ⟨_, Osc.advance_of_last_step N m fs one⟩
  | succ k _ ih =>
    obtain ⟨ph, e⟩ := ih
    rw [Function.iterate_succ_apply', e]
    exact ⟨_, Osc.advance_of_no_step N m fs rfl⟩

/-- A command that answers `OK` after the checks of a slot command had a ready block and a slot below `M`. -/
theorem slot_of_ok {cs : List (Bool × Status)} (hi : i ≠ .init) (hc : checks i s = slotChecks s j ++ cs)
    (hx : exec i s = .next t) (hok : responseCode t = some 0) : Ready s ∧ j.toNat < s.act.slots := by
  have hpass := checks_pass_of_ok hi hx hok
  rw [hc, slotChecks, firstError_append, firstError_append, Option.or_eq_none_iff, Option.or_eq_none_iff] at hpass
  obtain ⟨⟨hready, hindex⟩, -⟩ := hpass
  exact ⟨readyChecks_none.1 hready, by simpa [indexCheck] using hindex⟩

/-- Settles O45: the glide that `update` sets up, then `k` calls of `Next`. -/
theorem glideLaw : Obligations.GlideLaw := by
  unfold Obligations.GlideLaw
  intro j a f p n s t k hinv hn hx hok N o a0 f0
  have hi : Instr.oupd j a f p n ≠ .init := nofun
  obtain ⟨h, hj⟩ := slot_of_ok hi rfl hx hok
  obtain rfl := operation_of_ok hi hx hok
  have hlen := hinv.slot_lt_length h hj
  have hbank : j.toNat < (operation (.oupd j a f p n) s).osc.length := hlen.trans_eq (List.length_set ..).symm
  have hupdate := Osc.update_of_ne_zero (n := n) (by rintro rfl; exact absurd hn (by decide)) (s.slot j.toNat) N a f p
  have hsteps : ((s.slot j.toNat).update N a f p n).stepsLeft = n := by rw [hupdate]
  have ho : o = _ := slot_issueAll_onext (s := operation (.oupd j a f p n) s) h hj hbank k
  rw [slot_oupd hlen] at ho
  refine ⟨fun hk => ?_, fun hk => ?_⟩
  · obtain ⟨ph, left, e, hleft⟩ := Osc.iterate_advance_of_lt _ _ (hsteps ▸ hk)
    rw [ho, e, hupdate]
    exact ⟨rfl, rfl, hsteps ▸ hleft⟩
  · obtain ⟨ph, e⟩ := Osc.iterate_advance_of_le _ _ (hsteps ▸ hn) (hsteps ▸ hk)
    rw [ho, e, hupdate]
    exact ⟨rfl, rfl, rfl⟩

/-! ## The phase invariant (R210) -/

theorem Osc.update_ph (N : NumType) (a f p : NUM) (n : Word) (o : Osc) : (o.update N a f p n).ph = o.ph := by
  unfold Osc.update
  split <;> rfl

/-- The commands that write the phase of slot `k`. -/
def WritesPhase (i : Instr) (k : Nat) : Prop :=
  i = .init ∨ i = .rds ∨ ∃ j : BitVec 20, j.toNat = k ∧ (i = .onext j ∨ ∃ a f p, i = .ostart j a f p)

/-- Every Operation keeps the phase of a slot that its command does not write. -/
theorem slot_operation_ph {k : Nat} (h : ¬ WritesPhase i k) (s : State) :
    ((operation i s).slot k).ph = (s.slot k).ph := by
  cases i with
  | init => exact absurd (.inl rfl) h
  | rds => exact absurd (.inr (.inl rfl)) h
  | onext j =>
    exact congrArg Osc.ph (slot_setSlot_ne _ fun hk => h (.inr (.inr ⟨j, hk.symm, .inl rfl⟩)))
  | ostart j a f p =>
    exact congrArg Osc.ph (slot_setSlot_ne _ fun hk => h (.inr (.inr ⟨j, hk.symm, .inr ⟨a, f, p, rfl⟩⟩)))
  | oupd j a f p n => exact slot_setSlot_ph (Osc.update_ph ..) k
  | ostop j | oact on j => exact slot_setSlot_ph (l := j.toNat) (by rfl) k
  | wrreg r v => cases r <;> rfl
  | setbin a b v => cases a <;> rfl
  | wtgen force kind => obtain ⟨-, e⟩ | e := operation_wtgen_cases force kind s <;> rw [e] <;> rfl
  | _ => rfl

/-- A command keeps the phase of a slot that it does not write, whether it succeeds or fails. -/
theorem slot_exec_ph {k : Nat} (h : ¬ WritesPhase i k) (hx : exec i s = .next t) :
    (t.slot k).ph = (s.slot k).ph := by
  obtain ⟨rfl, -⟩ | ⟨rfl, -⟩ | ⟨-, -, rfl⟩ | ⟨-, c, -, -, rfl⟩ := exec_cases hx
  · exact absurd (.inl rfl) h
  · exact absurd (.inl rfl) h
  · exact slot_operation_ph h s
  · rfl

/-- Settles O46: the invariant after the command has the phases in the table. -/
theorem phaseInvariant : Obligations.PhaseInvariant := by
  unfold Obligations.PhaseInvariant
  intro i s t hinv hx
  refine ⟨fun o ho => ?_, fun k hne => not_not.1 fun h => hne (slot_exec_ph h hx)⟩
  have after := hinv.exec hx
  obtain ⟨⟨hle, hlt⟩, hfloor⟩ := (after.configured_of_slot ho).phase_index after.params ho
  rw [exec_num hx] at hle hlt hfloor
  exact ⟨hle, hlt, hfloor⟩

end Sys2Proof.Machine
end

section
/-! PROOFS. The family 46_peak_detector.md: the list `PEAKS` rebuilds (R221 to R228), its capacity (R222), what `GETPK`
reads (R229), and the vertex of the parabola in real arithmetic (R224). -/

namespace Sys2Proof.Machine

variable {s t : State} {i : Instr} {N : NumType} {fld : PkField} {k : BitVec 20}

/-! ## The peak at one bin (R223 to R228) -/

/-- A record is the one of bin `i` exactly where each field has its formula, over the offset and height it records. -/
theorem peakRecord_eq_iff {mag phs : List NUM} {binWidth : NUM} {n : Nat} {q : Peak} :
    peakRecord N mag phs binWidth n = q ↔
      q.bin = u32 n ∧
      q.off = vertexOffset N (readAt mag (n - 1)) (readAt mag n) (readAt mag (n + 1)) ∧
      q.mag = vertexHeight N (readAt mag (n - 1)) (readAt mag n) (readAt mag (n + 1)) q.off ∧
      q.amp = linearAmplitude N q.mag ∧ q.frq = refinedFrequency N binWidth n q.off ∧
      q.phs = phaseInterp N phs n q.off := by
  constructor
  · rintro rfl
    exact ⟨rfl, rfl, rfl, rfl, rfl, rfl⟩
  · obtain ⟨bin, off, mag, amp, frq, phs⟩ := q
    dsimp only
    rintro ⟨rfl, rfl, rfl, rfl, rfl, rfl⟩
    rfl

/-- The peak at a bin is the record of the bin, where the bin passes the three tests. -/
theorem peakAt_eq_some_iff {n : Nat} {q : Peak} : peakAt s n = some q ↔
    candidate s.num s.mag s.mthr n = true ∧ peakRecord s.num s.mag s.phs (s.act.binWidth s.num) n = q ∧
      peakGuard s.num (s.act.nyquist s.num) q = true ∧ significant s.num s.mag s.pthr n q.mag = true := by
  simp only [peakAt, Option.ite_none_right_eq_some, Option.some.injEq, Bool.and_eq_true]
  constructor
  · rintro ⟨⟨⟨hcandidate, hguard⟩, hsignificant⟩, rfl⟩
    exact ⟨hcandidate, rfl, hguard, hsignificant⟩
  · rintro ⟨hcandidate, rfl, hguard, hsignificant⟩
    exact ⟨⟨⟨hcandidate, hguard⟩, hsignificant⟩, rfl⟩

/-- `Records` writes out the tests and the formulas of the peak at a bin. -/
theorem peakAt_eq_some_iff_records {n : Nat} {q : Peak} : peakAt s n = some q ↔ Records s n q := by
  rw [peakAt_eq_some_iff, peakRecord_eq_iff]
  simp only [candidate, peakGuard, significant, Bool.and_eq_true, and_assoc]
  rfl

/-! ## The list in bin order (R221) -/

theorem mem_scanBins {bins n : Nat} : n ∈ scanBins bins ↔ 2 ≤ n ∧ n + 3 ≤ bins := by
  simp only [scanBins, List.mem_map, List.mem_range]
  constructor
  · rintro ⟨m, hm, rfl⟩
    omega
  · rintro ⟨hlo, hhi⟩
    exact ⟨n - 2, by omega, by omega⟩

theorem pairwise_scanBins (bins : Nat) : (scanBins bins).Pairwise (· < ·) :=
  List.pairwise_map.2 (List.pairwise_lt_range.imp fun h => Nat.add_lt_add_right h 2)

theorem mem_findPeaks {q : Peak} :
    q ∈ findPeaks s ↔ ∃ n, 2 ≤ n ∧ n + 3 ≤ s.act.numBins ∧ Records s n q := by
  simp only [findPeaks, List.mem_filterMap, mem_scanBins, peakAt_eq_some_iff_records, and_assoc]

/-- A legal geometry has a number of bins that a word holds. -/
theorem GeometryLegal.numBins_lt (g : GeometryLegal s.params s.act) (hp : s.params.Legal) :
    s.act.numBins < 2 ^ 32 := by
  have hsize := g.sizeMax
  have hindex := hp.wsIndex
  unfold Active.numBins Active.paddedSize
  split <;> omega

/-- The records stand in the order of their bin words, which do not wrap. -/
theorem pairwise_findPeaks (h : s.act.numBins < 2 ^ 32) :
    (findPeaks s).Pairwise fun q r => q.bin.toNat < r.bin.toNat := by
  have bin_toNat {n : Nat} {q : Peak} (hn : n ∈ scanBins s.act.numBins) (hq : peakAt s n = some q) :
      q.bin.toNat = n := by
    obtain ⟨-, hbin, -⟩ := peakAt_eq_some_iff.1 hq
    obtain ⟨hword, -⟩ := peakRecord_eq_iff.1 hbin
    obtain ⟨-, hlast⟩ := mem_scanBins.1 hn
    rw [hword, u32, BitVec.toNat_ofNat, Nat.mod_eq_of_lt (by omega)]
  refine List.pairwise_filterMap.2 ((pairwise_scanBins _).imp_of_mem fun hm hn hlt q hq r hr => ?_)
  rwa [bin_toNat hm hq, bin_toNat hn hr]

/-! ## `PEAKS` (R221, R222) -/

theorem exec_peaks (h : Ready s) : exec .peaks s = .next (operation .peaks s) :=
  runChecked_of_none _ _ (readyChecks_none.2 h)

/-- Settles O47: the list is the peaks at the bins of the scan range, in their order. -/
theorem peaksRebuildsList : Obligations.PeaksRebuildsList := by
  unfold Obligations.PeaksRebuildsList
  refine ⟨by decide, fun s => ⟨readyGuard_of_checks nofun (List.append_nil _).symm, fun h hinv => ?_⟩⟩
  have hbins := (hinv.configured h.2).geometry.numBins_lt hinv.params
  exact ⟨_, exec_peaks h, fun q => mem_findPeaks, pairwise_findPeaks hbins, rfl⟩

/-- Settles O48: candidates rise over two bins and fall over two, so no two of them are within three bins. -/
theorem peakCapacity : Obligations.PeakCapacity := by
  unfold Obligations.PeakCapacity
  exact fun s hN => ⟨fun _ _ _ hlt hi hl => candidate_spacing hN hlt hi hl, findPeaks_length_le hN, rfl⟩

/-! ## `GETPK` (R229) -/

/-- No Operation but those of `PEAKS` and `INIT` writes the records. -/
theorem operation_pk (hpeaks : i ≠ .peaks) (hinit : i ≠ .init) (s : State) : (operation i s).pk = s.pk := by
  cases i with
  | peaks => exact absurd rfl hpeaks
  | init => exact absurd rfl hinit
  | wrreg r v => cases r <;> rfl
  | setbin a n v => cases a <;> rfl
  | wtgen force kind => obtain ⟨-, e⟩ | e := operation_wtgen_cases force kind s <;> rw [e] <;> rfl
  | _ => rfl

/-- The records persist across every command but `PEAKS` and `INIT`, whether it succeeds or fails. -/
theorem exec_pk (hpeaks : i ≠ .peaks) (hinit : i ≠ .init) (hx : exec i s = .next t) : t.pk = s.pk := by
  obtain ⟨rfl, -⟩ | ⟨rfl, -⟩ | ⟨-, -, rfl⟩ | ⟨-, c, -, -, rfl⟩ := exec_cases hx
  · exact absurd rfl hinit
  · exact absurd rfl hinit
  · exact operation_pk hpeaks hinit s
  · exact raiseError_pk s c

/-- The one check `GETPK` makes in a ready block. -/
theorem firstError_getpk (h : Ready s) :
    firstError (checks (.getpk fld k) s) = if s.pkCount ≤ k.toNat then some .index else none := by
  rw [checks, firstError_readyChecks_append h]
  simp [indexCheck]

/-- Settles O49: the index check against the number of records, then the field of the record itself. -/
theorem getpkReadsField : Obligations.GetpkReadsField := by
  unfold Obligations.GetpkReadsField
  refine ⟨fun i s t hpeaks hinit hx => exec_pk hpeaks hinit hx, fun fld k s => ?_⟩
  refine ⟨congrArg (fun h => [h]) (mkHdr_eq_hdr _ _ _), readyGuard_of_checks nofun rfl, ?_⟩
  rw [exec_eq (i := .getpk fld k) nofun]
  refine ⟨fun h hout => ?_, fun h q hq => ?_⟩
  · exact runChecked_of_some _ _ ((firstError_getpk h).trans (if_pos hout))
  · obtain ⟨hin, -⟩ := List.getElem?_eq_some_iff.1 hq
    have hpeak : s.peak k.toNat = q := by rw [State.peak, List.getD_eq_getElem?_getD, hq, Option.getD_some]
    rw [runChecked_of_none _ _ ((firstError_getpk h).trans (if_neg hin.not_ge)), operation, hpeak]
    cases fld <;> rfl

end Sys2Proof.Machine

namespace Sys2Proof.Ideal

/-! ## The parabola of a peak in real arithmetic (R224) -/

variable {a b c : ℝ}

theorem secondDifference_neg (ha : a < b) (hc : c < b) : secondDifference a b c < 0 := by
  unfold secondDifference
  linarith

/-- The parabola in vertex form: the square of the distance to the vertex offset, added to the vertex height. -/
theorem parabola_eq_vertex (hd : secondDifference a b c ≠ 0) (x : ℝ) :
    parabola a b c x = vertexHeight a b c + secondDifference a b c / 2 * (x - vertexOffset a b c) ^ 2 := by
  have hp : vertexOffset a b c * secondDifference a b c = 1 / 2 * (a - c) := div_mul_cancel₀ _ hd
  unfold parabola vertexHeight
  linear_combination (x - 1 / 2 * vertexOffset a b c) * hp

/-- The parabola passes through the three points that define it. -/
theorem parabola_interpolates (a b c : ℝ) :
    parabola a b c (-1) = a ∧ parabola a b c 0 = b ∧ parabola a b c 1 = c := by
  unfold parabola secondDifference
  refine ⟨?_, ?_, ?_⟩ <;> ring

/-- A parabola that opens downwards is nowhere above its vertex. -/
theorem parabola_le_vertexHeight (hd : secondDifference a b c < 0) (x : ℝ) :
    parabola a b c x ≤ vertexHeight a b c := by
  rw [parabola_eq_vertex hd.ne]
  exact add_le_of_nonpos_right (mul_nonpos_of_nonpos_of_nonneg (by linarith) (sq_nonneg _))

/-- The vertex is under half a bin from the middle: the outer points differ by less than the second difference. -/
theorem vertexOffset_mem_Ioo (ha : a < b) (hc : c < b) : vertexOffset a b c ∈ Set.Ioo (-(1 / 2)) (1 / 2) := by
  have hd := secondDifference_neg ha hc
  rw [vertexOffset]
  refine ⟨(lt_div_iff_of_neg hd).2 ?_, (div_lt_iff_of_neg hd).2 ?_⟩ <;> rw [secondDifference] <;> linarith

/-- The vertex lies towards the higher of the outer points. -/
theorem vertexOffset_pos (hd : secondDifference a b c < 0) (hac : a < c) : 0 < vertexOffset a b c :=
  div_pos_of_neg_of_neg (by linarith) hd

/-- Settles O55: everything about the height and the offset follows from the vertex form. -/
theorem realParabolaVertex : Obligations.RealParabolaVertex := by
  unfold Obligations.RealParabolaVertex
  intro a b c ha hc
  have hd := secondDifference_neg ha hc
  obtain ⟨hlow, hhigh⟩ := vertexOffset_mem_Ioo ha hc
  have hmax := parabola_le_vertexHeight hd
  obtain ⟨hleft, hmid, hright⟩ := parabola_interpolates a b c
  refine ⟨hd, hlow, hhigh, hmid.ge.trans (hmax 0), vertexOffset_pos hd, hleft, hmid, hright, ?_, hmax⟩
  rw [parabola_eq_vertex hd.ne, sub_self, zero_pow two_ne_zero, mul_zero, add_zero]

end Sys2Proof.Ideal
end

section
/-! PROOFS. The families 47_mixer.md, 49_host_track_firmware.md and 60_exceptions.md: the host's tracks (R253, R255,
R265), assignment (R257, R258), breakpoint pass (R254, R260 to R264) and start (R250); what `RDS` mixes (R241); the order
of the failure conditions (R288), the codes of each command (R282), what an error does (R285, R286), the `HALT` latch
(R283) and a failing `INIT` (R289). -/

namespace Sys2Proof.NumType.Lawful

theorem lt_of_lt_of_le {N : NumType} (h : N.Lawful) {a b c : NUM} (hab : N.lt a b = true) (hbc : N.le b c = true) :
    N.lt a c = true := by
  rw [h.lt_iff] at *
  obtain ⟨hle, hnot⟩ := hab
  refine ⟨h.le_trans _ _ _ hle hbc, Bool.eq_false_iff.2 fun hca => ?_⟩
  exact Bool.eq_false_iff.1 hnot (h.le_trans _ _ _ hbc hca)

end Sys2Proof.NumType.Lawful

namespace Sys2Proof.Firmware

open Sys2Proof.Machine

/-! ## The track state machine (R253, R255) -/

section Track

variable {birth death : Nat} {t : Track}

theorem Track.update_birth_match (h : t.status = .birth) : t.update birth death true =
    { t with
      birthFrames := t.birthFrames + 1
      status := if birth ≤ t.birthFrames + 1 then .alive else .birth } := by
  simp [Track.update, h]

theorem Track.update_birth_miss (h : t.status = .birth) :
    t.update birth death false = { t with status := .dead } := by
  simp [Track.update, h]

theorem Track.update_alive_match (h : t.status = .alive) :
    t.update birth death true = { t with aliveFrames := t.aliveFrames + 1 } := by
  simp [Track.update, h]

theorem Track.update_alive_miss (h : t.status = .alive) :
    t.update birth death false = { t with dyingFrames := 0, status := .dying } := by
  simp [Track.update, h]

theorem Track.update_dying_match (h : t.status = .dying) :
    t.update birth death true = { t with dyingFrames := 0, status := .alive } := by
  simp [Track.update, h]

theorem Track.update_dying_miss (h : t.status = .dying) : t.update birth death false =
    { t with
      dyingFrames := t.dyingFrames + 1
      status := if death ≤ t.dyingFrames + 1 then .dead else .dying } := by
  simp [Track.update, h]

theorem Track.update_dead (h : t.status = .dead) (isMatched : Bool) : t.update birth death isMatched = t := by
  simp [Track.update, h]

/-- Settles O51, by the equation of each status. -/
theorem trackTransitions : Obligations.TrackTransitions := by
  unfold Obligations.TrackTransitions
  intro birth death m t
  refine ⟨rfl, fun h hb => ?_, fun h hb => ?_, Track.update_birth_miss, Track.update_alive_match,
    Track.update_alive_miss, Track.update_dying_match, fun h hd => ?_, fun h hd => ?_,
    fun matched h => Track.update_dead h matched⟩
  · rw [Track.update_birth_match h, if_pos hb]
  · rw [Track.update_birth_match h, if_neg hb.not_ge, ← h]
  · rw [Track.update_dying_miss h, if_pos hd]
  · rw [Track.update_dying_miss h, if_neg hd.not_ge, ← h]

/-! ## The life cycle of a track (R265) -/

/-- A new track fed matches only counts them until the threshold. -/
theorem iterate_match_begin (m : TrackMatch) {n : Nat} (h : n < birth) :
    (Track.update birth death true)^[n] (Track.begin m) = { Track.begin m with birthFrames := n } := by
  induction n with
  | zero => rfl
  | succ n ih =>
    rw [Function.iterate_succ_apply', ih (by omega), Track.update_birth_match rfl, if_neg h.not_ge]
    rfl

/-- An `Alive` track fed misses is `Dying` from the first on and counts the further ones until the threshold. -/
theorem iterate_miss_alive (ht : t.status = .alive) {n : Nat} (h : n < death) :
    (Track.update birth death false)^[n + 1] t = { t with dyingFrames := n, status := .dying } := by
  induction n with
  | zero => exact Track.update_alive_miss ht
  | succ n ih => rw [Function.iterate_succ_apply', ih (by omega), Track.update_dying_miss rfl, if_neg h.not_ge]

/-- Settles O52, by the track one match short of `trackBirth` and one miss short of `trackDeath`. -/
theorem trackLifecycle : Obligations.TrackLifecycle := by
  unfold Obligations.TrackLifecycle
  intro birth death m hbirth hdeath
  obtain ⟨b, rfl⟩ := Nat.exists_eq_add_of_le' hbirth
  obtain ⟨d, rfl⟩ := Nat.exists_eq_add_of_le' hdeath
  refine ⟨fun n hn => ?_, ?_, fun t ht => ⟨fun n hn => ?_, ?_, fun n hn => ?_⟩⟩
  · rw [iterate_match_begin m hn]
    rfl
  · rw [Function.iterate_succ_apply', iterate_match_begin m b.lt_succ_self, Track.update_birth_match rfl,
      if_pos le_rfl]
  · rw [iterate_miss_alive ht hn]
  · rw [Function.iterate_succ_apply', iterate_miss_alive ht d.lt_succ_self, Track.update_dying_miss rfl, if_pos le_rfl]
  · rw [iterate_miss_alive ht hn, Track.update_dying_match rfl]
    exact ⟨rfl, rfl, rfl, rfl⟩

end Track

/-! ## The ranking of the peaks for a track (R258) -/

section Ranking

variable {N : NumType} (hN : N.Lawful) {w : Weights} {t : Track} {m n q : TrackMatch}

/-- `ranksBefore` as a proposition: the lexicographic order of frequency difference and full distance. -/
theorem ranksBefore_iff : ranksBefore N w t m n = true ↔
    N.lt (distance N m.frequency t.frequency) (distance N n.frequency t.frequency) = true ∨
    (N.eq (distance N m.frequency t.frequency) (distance N n.frequency t.frequency) = true ∧
      N.lt (distanceSquared N w t m) (distanceSquared N w t n) = true) := by
  simp [ranksBefore]

include hN

theorem not_ranksBefore_self : ¬ ranksBefore N w t m m = true := by
  simp [ranksBefore_iff, hN.lt_irrefl]

theorem ranksBefore_trans (hmn : ranksBefore N w t m n = true) (hnq : ranksBefore N w t n q = true) :
    ranksBefore N w t m q = true := by
  rw [ranksBefore_iff, hN.eq_iff] at *
  rcases hmn with hmn | ⟨⟨hmn, hnm⟩, hlt⟩ <;> rcases hnq with hnq | ⟨⟨hnq, hqn⟩, hlt'⟩
  · exact .inl (hN.lt_trans hmn hnq)
  · exact .inl (hN.lt_of_lt_of_le hmn hnq)
  · exact .inl (hN.lt_of_le_of_lt hmn hnq)
  · exact .inr ⟨⟨hN.le_trans _ _ _ hmn hnq, hN.le_trans _ _ _ hqn hnm⟩, hN.lt_trans hlt hlt'⟩

/-- What ranks before `n` ranks before everything that does not, provided the distances are numbers. -/
theorem ranksBefore_of_not_ranksBefore (hmn : ranksBefore N w t m n = true) (hqn : ¬ ranksBefore N w t q n = true)
    (hgap : N.le (distance N q.frequency t.frequency) (distance N q.frequency t.frequency) = true)
    (hdist : N.le (distanceSquared N w t q) (distanceSquared N w t q) = true) : ranksBefore N w t m q = true := by
  rw [ranksBefore_iff, hN.eq_iff] at *
  push Not at hqn
  obtain ⟨hgapn, htie⟩ := hqn
  have number : N.le (distance N n.frequency t.frequency) (distance N n.frequency t.frequency) = true := by
    rcases hmn with hlt | ⟨⟨hle, -⟩, -⟩
    · exact (hN.le_number _ _ (hN.le_of_lt hlt)).2
    · exact (hN.le_number _ _ hle).2
  have hnq := (hN.lt_or_le hgap number).resolve_left hgapn
  rcases hmn with hlt | ⟨⟨hmn, hnm⟩, hlt⟩
  · exact .inl (hN.lt_of_lt_of_le hlt hnq)
  rcases hN.lt_or_le number hgap with hlt' | hqn
  · exact .inl (hN.lt_of_le_of_lt hmn hlt')
  have hdn := (hN.le_number _ _ (hN.le_of_lt hlt)).2
  have hle := (hN.lt_or_le hdist hdn).resolve_left (htie ⟨hqn, hnq⟩)
  exact .inr ⟨⟨hN.le_trans _ _ _ hmn hnq, hN.le_trans _ _ _ hqn hnm⟩, hN.lt_of_lt_of_le hlt hle⟩

end Ranking

/-! ## The best peak for a track (R257, R258) -/

section BestPeak

variable {N : NumType} {w : Weights} {matchWindow : NUM → NUM} {t : Track} {m : TrackMatch} {ms : List TrackMatch}
  {b k n : Nat}

/-- `isCandidate` as a proposition. -/
theorem isCandidate_iff : isCandidate N matchWindow t m = true ↔
    m.isAssigned = false ∧ N.le (distance N m.frequency t.frequency) (matchWindow t.frequency) = true := by
  simp [isCandidate]

/-- The best of the first `n` peaks. -/
def bestBelow (N : NumType) (w : Weights) (matchWindow : NUM → NUM) (t : Track) (ms : List TrackMatch) (n : Nat) :
    Option Nat :=
  ((List.range n).filter fun k => (ms[k]?.map (isCandidate N matchWindow t)).getD false).foldl (betterOf N w t ms) none

theorem bestPeak_eq : bestPeak N w matchWindow t ms = bestBelow N w matchWindow t ms ms.length := rfl

/-- One peak more, if it is a candidate, is compared with the best so far. -/
theorem bestBelow_succ (hm : ms[n]? = some m) : bestBelow N w matchWindow t ms (n + 1) =
    if isCandidate N matchWindow t m then betterOf N w t ms (bestBelow N w matchWindow t ms n) n
    else bestBelow N w matchWindow t ms n := by
  rw [bestBelow, List.range_succ, List.filter_append, List.foldl_append]
  cases hc : isCandidate N matchWindow t m <;> simp [hm, hc, bestBelow]

/-- Of two peaks the one at `k` wins exactly where it ranks before the best so far. -/
theorem betterOf_some {q : TrackMatch} (hk : ms[k]? = some m) (hb : ms[b]? = some q) :
    betterOf N w t ms (some b) k = if ranksBefore N w t m q then some k else some b := by
  simp [betterOf, hk, hb]

/-- Peak `b` is the best of the first `n`: a candidate that no other ranks before, the first of those that tie. -/
structure IsBest (N : NumType) (w : Weights) (matchWindow : NUM → NUM) (t : Track) (ms : List TrackMatch) (n b : Nat)
    (q : TrackMatch) : Prop where
  lt : b < n
  get : ms[b]? = some q
  candidate : isCandidate N matchWindow t q = true
  first : ∀ (k : Nat) (m : TrackMatch), k < n → ms[k]? = some m → isCandidate N matchWindow t m = true →
    ¬ ranksBefore N w t m q = true
  tie : ∀ (k : Nat) (m : TrackMatch), k < b → ms[k]? = some m → isCandidate N matchWindow t m = true →
    N.le (distanceSquared N w t m) (distanceSquared N w t m) = true → ranksBefore N w t q m = true

/-- The best so far and one candidate more. -/
theorem IsBest.betterOf (hN : N.Lawful) {q : TrackMatch} (h : IsBest N w matchWindow t ms n b q) (hm : ms[n]? = some m)
    (hc : isCandidate N matchWindow t m = true) :
    ∃ b' q', Firmware.betterOf N w t ms (some b) n = some b' ∧ IsBest N w matchWindow t ms (n + 1) b' q' := by
  rw [betterOf_some hm h.get]
  have below {k : Nat} {q' : TrackMatch} (hk : k < n + 1) (hq' : ms[k]? = some q') : k < n ∨ q' = m := by
    rcases Nat.lt_succ_iff_lt_or_eq.1 hk with hk | rfl
    · exact .inl hk
    · exact .inr (Option.some.inj (hq'.symm.trans hm))
  split
  · next hbefore =>
    refine ⟨n, m, rfl, n.lt_succ_self, hm, hc, fun k q' hk hq' hc' => ?_, fun k q' hk hq' hc' hdist => ?_⟩
    · rcases below hk hq' with hk | rfl
      · exact fun hlt => h.first k q' hk hq' hc' (ranksBefore_trans hN hlt hbefore)
      · exact not_ranksBefore_self hN
    · obtain ⟨-, hwindow⟩ := isCandidate_iff.1 hc'
      exact ranksBefore_of_not_ranksBefore hN hbefore (h.first k q' hk hq' hc') (hN.le_number _ _ hwindow).1 hdist
  · next hnot =>
    refine ⟨b, q, rfl, h.lt.trans n.lt_succ_self, h.get, h.candidate, fun k q' hk hq' hc' => ?_, h.tie⟩
    rcases below hk hq' with hk | rfl
    · exact h.first k q' hk hq' hc'
    · exact hnot

/-- What the search over the first `n` peaks answers. -/
theorem bestBelow_spec (hN : N.Lawful) (hn : n ≤ ms.length) :
    (bestBelow N w matchWindow t ms n = none ∧
      ∀ (k : Nat) (m : TrackMatch), k < n → ms[k]? = some m → ¬ isCandidate N matchWindow t m = true) ∨
    ∃ b q, bestBelow N w matchWindow t ms n = some b ∧ IsBest N w matchWindow t ms n b q := by
  induction n with
  | zero => exact .inl ⟨rfl, fun k m hk => absurd hk k.not_lt_zero⟩
  | succ n ih =>
    have hm : ms[n]? = some ms[n] := List.getElem?_eq_getElem hn
    have last {k : Nat} {q : TrackMatch} (hk : k < n + 1) (hq : ms[k]? = some q) : k < n ∨ (k = n ∧ q = ms[n]) := by
      rcases Nat.lt_succ_iff_lt_or_eq.1 hk with hk | rfl
      · exact .inl hk
      · exact .inr ⟨rfl, Option.some.inj (hq.symm.trans hm)⟩
    rw [bestBelow_succ hm]
    split
    · next hc =>
      obtain ⟨e, hnone⟩ | ⟨b, q, e, hbest⟩ := ih (Nat.le_of_succ_le hn) <;> rw [e]
      · refine .inr ⟨n, _, rfl, n.lt_succ_self, hm, hc, fun k q hk hq hc' => ?_, fun k q hk hq hc' => ?_⟩
        · rcases last hk hq with hk | ⟨-, rfl⟩
          · exact absurd hc' (hnone k q hk hq)
          · exact not_ranksBefore_self hN
        · exact absurd hc' (hnone k q hk hq)
      · exact .inr (hbest.betterOf hN hm hc)
    · next hc =>
      obtain ⟨e, hnone⟩ | ⟨b, q, e, hbest⟩ := ih (Nat.le_of_succ_le hn) <;> rw [e]
      · refine .inl ⟨rfl, fun k q hk hq => ?_⟩
        rcases last hk hq with hk | ⟨-, rfl⟩
        · exact hnone k q hk hq
        · exact hc
      · refine .inr ⟨b, q, rfl, { hbest with lt := hbest.lt.trans n.lt_succ_self, first := fun k q' hk hq' hc' => ?_ }⟩
        rcases last hk hq' with hk | ⟨-, rfl⟩
        · exact hbest.first k q' hk hq' hc'
        · exact absurd hc' hc

/-- A track for which there is a candidate has a best peak. -/
theorem exists_isBest (hN : N.Lawful) (hk : ms[k]? = some m) (hc : isCandidate N matchWindow t m = true) :
    ∃ b q, bestPeak N w matchWindow t ms = some b ∧ IsBest N w matchWindow t ms ms.length b q := by
  obtain ⟨hlt, -⟩ := List.getElem?_eq_some_iff.1 hk
  obtain ⟨-, hnone⟩ | hbest := bestBelow_spec (w := w) hN le_rfl
  · exact absurd hc (hnone k m hlt hk)
  · exact hbest

theorem isBest_of_bestPeak (hN : N.Lawful) (h : bestPeak N w matchWindow t ms = some b) :
    ∃ q, IsBest N w matchWindow t ms ms.length b q := by
  obtain ⟨e, -⟩ | ⟨b', q, e, hbest⟩ :=
    bestBelow_spec (w := w) (matchWindow := matchWindow) (t := t) hN (le_refl ms.length)
  · cases h.symm.trans e
  · obtain rfl : b = b' := Option.some.inj (h.symm.trans e)
    exact ⟨q, hbest⟩

end BestPeak

/-! ## The assignment, slot by slot (R257, R258) -/

section Assign

variable {N : NumType} {w : Weights} {matchWindow : NUM → NUM} {t : Track} {ts pool : List Track}
  {ms : List TrackMatch}

/-- What a track claims of the peaks it finds. -/
def claimOf (N : NumType) (w : Weights) (matchWindow : NUM → NUM) (t : Track) (ms : List TrackMatch) : Option Nat :=
  if t.status = .dead then none else bestPeak N w matchWindow t ms

/-- The peaks after a track has made its claim. -/
def afterClaim (N : NumType) (w : Weights) (t : Track) (claim : Option Nat) (ms : List TrackMatch) : List TrackMatch :=
  match claim with
  | none => ms
  | some k => markAssigned N w t k ms

theorem assign_cons : assign N w matchWindow (t :: ts) ms =
    (claimOf N w matchWindow t ms ::
        (assign N w matchWindow ts (afterClaim N w t (claimOf N w matchWindow t ms) ms)).1,
      (assign N w matchWindow ts (afterClaim N w t (claimOf N w matchWindow t ms) ms)).2) := by
  rw [assign, claimOf]
  split <;> rename_i e <;> rw [e] <;> rfl

theorem assign_claims_length : (assign N w matchWindow pool ms).1.length = pool.length := by
  induction pool generalizing ms with
  | nil => rfl
  | cons t ts ih => rw [assign_cons, List.length_cons, List.length_cons, ih]

/-- The records a claim leaves unassigned are the unassigned ones that were not claimed. -/
theorem getElem?_afterClaim {claim : Option Nat} {l : Nat} {m : TrackMatch} (hm : m.isAssigned = false) :
    (afterClaim N w t claim ms)[l]? = some m ↔ ms[l]? = some m ∧ claim ≠ some l := by
  cases claim with
  | none => simp [afterClaim]
  | some k =>
    rw [afterClaim, markAssigned, List.getElem?_modify]
    by_cases hkl : k = l
    · subst hkl
      refine iff_of_false (fun h => ?_) (by simp)
      obtain ⟨q, -, rfl⟩ := Option.map_eq_some_iff.1 h
      cases (if_pos rfl ▸ hm :)
    · simp [hkl]

/-- The peaks slot `j` finds at its turn: of the unassigned ones those that no earlier slot has claimed. -/
def FoundAt (peaks : List TrackMatch) (claims : List (Option Nat)) (j : Nat) (found : List TrackMatch) : Prop :=
  ∀ (l : Nat) (m : TrackMatch), m.isAssigned = false →
    (found[l]? = some m ↔ peaks[l]? = some m ∧ ∀ i < j, claims[i]? ≠ some (some l))

/-- Each slot claims what its track claims of the peaks it finds at its turn. -/
theorem exists_foundAt {j : Nat} (ht : pool[j]? = some t) :
    ∃ found, FoundAt ms (assign N w matchWindow pool ms).1 j found ∧
      (assign N w matchWindow pool ms).1[j]? = some (claimOf N w matchWindow t found) := by
  induction pool generalizing ms j with
  | nil => cases ht
  | cons t' ts ih =>
    rw [assign_cons]
    cases j with
    | zero =>
      cases ht
      exact ⟨ms, fun l m hm => by simp, rfl⟩
    | succ j =>
      obtain ⟨found, turn, hclaim⟩ := ih (ms := afterClaim N w t' (claimOf N w matchWindow t' ms) ms) ht
      refine ⟨found, fun l m hm => ?_, hclaim⟩
      rw [turn l m hm, getElem?_afterClaim hm, Nat.forall_lt_succ_left, and_assoc]
      simp

/-- What a claim comes with: the slot's track was not `Dead`, and the peak is the best of those it found. -/
theorem isBest_of_claim (hN : N.Lawful) {j k : Nat} (h : (assign N w matchWindow pool ms).1[j]? = some (some k)) :
    ∃ t found q, pool[j]? = some t ∧ t.status ≠ .dead ∧ FoundAt ms (assign N w matchWindow pool ms).1 j found ∧
      IsBest N w matchWindow t found found.length k q := by
  obtain ⟨hj, -⟩ := List.getElem?_eq_some_iff.1 h
  rw [assign_claims_length] at hj
  have ht : pool[j]? = some pool[j] := List.getElem?_eq_getElem hj
  obtain ⟨found, turn, hclaim⟩ := exists_foundAt (N := N) (w := w) (matchWindow := matchWindow) (ms := ms) ht
  have e := Option.some.inj (hclaim.symm.trans h)
  rw [claimOf] at e
  split at e
  · cases e
  · next halive =>
    obtain ⟨q, hbest⟩ := isBest_of_bestPeak hN e
    exact ⟨_, found, q, ht, halive, turn, hbest⟩

/-- A claimed peak was unassigned, in the window, and claimed by no earlier slot. -/
theorem claim_spec (hN : N.Lawful) {j k : Nat} (h : (assign N w matchWindow pool ms).1[j]? = some (some k)) :
    ∃ t m, pool[j]? = some t ∧ ms[k]? = some m ∧ t.status ≠ .dead ∧ isCandidate N matchWindow t m = true ∧
      ∀ i < j, (assign N w matchWindow pool ms).1[i]? ≠ some (some k) := by
  obtain ⟨t, found, q, ht, halive, turn, hbest⟩ := isBest_of_claim hN h
  obtain ⟨hfree, -⟩ := isCandidate_iff.1 hbest.candidate
  obtain ⟨hq, hfirst⟩ := (turn k q hfree).1 hbest.get
  exact ⟨t, q, ht, hq, halive, hbest.candidate, hfirst⟩

/-- Settles O53: a slot claims the best of the peaks it finds at its turn, and those are the ones left unclaimed. -/
theorem assignmentIsInjective : Obligations.AssignmentIsInjective := by
  unfold Obligations.AssignmentIsInjective
  intro N w matchWindow pool peaks hN
  refine ⟨assign_claims_length, fun j l k hj hl => ?_, fun j k hk => ?_,
    fun j l t m ht halive hl hfree hwindow hleft => ?_⟩
  · obtain ⟨-, -, -, -, -, -, hfirst⟩ := claim_spec hN hj
    obtain ⟨-, -, -, -, -, -, hfirst'⟩ := claim_spec hN hl
    rcases Nat.lt_trichotomy j l with hlt | rfl | hlt
    · exact absurd hj (hfirst' j hlt)
    · rfl
    · exact absurd hl (hfirst l hlt)
  · obtain ⟨t, m, ht, hm, halive, hc, -⟩ := claim_spec hN hk
    exact ⟨t, m, ht, hm, halive, isCandidate_iff.1 hc⟩
  · obtain ⟨found, turn, hclaim⟩ := exists_foundAt (N := N) (w := w) (matchWindow := matchWindow) (ms := peaks) ht
    have hfound := (turn l m hfree).2 ⟨hl, hleft⟩
    have hc : isCandidate N matchWindow t m = true := isCandidate_iff.2 ⟨hfree, hwindow⟩
    obtain ⟨k, q, e, hbest⟩ := exists_isBest (w := w) hN hfound hc
    obtain ⟨hqfree, -⟩ := isCandidate_iff.1 hbest.candidate
    obtain ⟨hq, -⟩ := (turn k q hqfree).1 hbest.get
    obtain ⟨hlt, -⟩ := List.getElem?_eq_some_iff.1 hfound
    refine ⟨k, q, ?_, hq, ?_, fun hlk hdist => ?_⟩
    · rw [hclaim, claimOf, if_neg halive, e]
    · exact mt ranksBefore_iff.2 (hbest.first l m hlt hfound hc)
    · exact ranksBefore_iff.1 (hbest.tie l m hlk hfound hc hdist)

end Assign

/-! ## Commands of the host that the block accepts -/

section Accepted

variable {N : NumType} {a : Active} {s u : State} {i : Instr} {is : List Instr} {k : Nat} {v : Bool}

/-- The operands `OSTART` and `OUPD` accept (45_oscillator.md R201), as a peak carries them. -/
structure Deliverable (N : NumType) (nyquist : NUM) (m : TrackMatch) : Prop where
  amplitude : N.isFinite m.amplitude = true
  frequency : freqLegal N nyquist m.frequency = true
  phase : N.isFinite m.phase = true

/-- A command of the breakpoint pass that a ready block with this configuration carries out. -/
inductive Accepted (N : NumType) (a : Active) : Instr → Prop
  | start {j : BitVec 20} (hj : j.toNat < a.slots) {m : TrackMatch} (hm : Deliverable N (a.nyquist N) m) :
      Accepted N a (.ostart j m.amplitude m.frequency m.phase)
  | stop {j : BitVec 20} (hj : j.toNat < a.slots) : Accepted N a (.ostop j)
  | glide {j : BitVec 20} (hj : j.toNat < a.slots) {m : TrackMatch} (hm : Deliverable N (a.nyquist N) m) (n : Word) :
      Accepted N a (.oupd j m.amplitude m.frequency m.phase n)
  | enable {j : BitVec 20} (hj : j.toNat < a.slots) : Accepted N a (.oact true j)

theorem Accepted.exec (h : Accepted s.num s.act i) (hs : Ready s) : exec i s = .next (operation i s) := by
  cases h with
  | start hj hm => exact exec_operands_pass nofun rfl hs hj hm.amplitude hm.frequency hm.phase
  | stop hj => exact exec_slot_inside (cs := []) nofun rfl hs hj
  | glide hj hm n => exact exec_operands_pass nofun rfl hs hj hm.amplitude hm.frequency hm.phase
  | enable hj => exact exec_slot_inside (cs := []) nofun rfl hs hj

/-- `u` is a ready block with the invariant, configured as `s`, that has logged no error since. -/
structure InService (s u : State) : Prop where
  ready : Ready u
  inv : Inv u
  params : u.params = s.params
  act : u.act = s.act
  errCnt : u.errCnt = s.errCnt

theorem InService.num (h : InService s u) : u.num = s.num := by rw [State.num, State.num, h.params]

theorem InService.refl (hs : Ready s) (hinv : Inv s) : InService s s := ⟨hs, hinv, rfl, rfl, rfl⟩

/-- The active bit a command writes for slot `k`, if it writes it (45_oscillator.md R203, R207). -/
def activeWrite (k : Nat) : Instr → Option Bool
  | .ostop j => if j.toNat = k then some false else none
  | .oact on j => if j.toNat = k then some on else none
  | _ => none

/-- A write to slot `j`, read at slot `k` of the bank. -/
theorem slot_setSlot_active {j k : Nat} (hk : k < s.osc.length) (o : Osc) :
    ((s.setSlot j o).slot k).active = if j = k then o.active else (s.slot k).active := by
  split
  · next h => subst h; rw [slot_setSlot_same hk]
  · next h => rw [slot_setSlot_ne o (Ne.symm h)]

/-- An accepted command leaves the active bit it writes, and every other as it was. -/
theorem Accepted.slot_active (h : Accepted N a i) (hk : k < s.osc.length) :
    ((operation i s).slot k).active = (activeWrite k i).getD (s.slot k).active := by
  have written {j : Nat} {o : Osc} (ho : o.active = (s.slot j).active) :
      ((s.setSlot j o).slot k).active = (s.slot k).active := by
    rw [slot_setSlot_active hk]
    split
    · next h => subst h; exact ho
    · rfl
  cases h with
  | start => exact written rfl
  | glide hj hm n => exact written (by rw [Osc.update]; split <;> rfl)
  | stop | enable =>
    refine (slot_setSlot_active hk _).trans ?_
    rw [activeWrite]
    split <;> rfl

/-- An accepted command keeps the block in service. -/
theorem InService.issue (h : InService s u) (hi : Accepted s.num s.act i) : InService s (issue i u) := by
  have hacc : Accepted u.num u.act i := by rw [h.num, h.act]; exact hi
  have hx := hacc.exec h.ready
  have e : Firmware.issue i u = operation i u := by rw [Firmware.issue, hx]
  have hinv := h.inv.exec hx
  rw [e]
  cases hi <;> exact ⟨h.ready, hinv, h.params, h.act, h.errCnt⟩

/-- Accepted commands keep the block in service. -/
theorem InService.issueAll (h : InService s u) (his : ∀ i ∈ is, Accepted s.num s.act i) :
    InService s (issueAll is u) := by
  induction is generalizing u with
  | nil => exact h
  | cons i is ih =>
    rw [List.forall_mem_cons] at his
    exact ih (h.issue his.1) his.2

/-- If every command that writes the active bit of a slot writes the same value, and one does or the bit has the value
already, the bit has that value after them all. -/
theorem InService.slot_active_issueAll (h : InService s u) (his : ∀ i ∈ is, Accepted s.num s.act i)
    (hk : k < s.act.slots) (hwrites : ∀ i ∈ is, ∀ b, activeWrite k i = some b → b = v)
    (hv : (u.slot k).active = v ∨ ∃ i ∈ is, activeWrite k i = some v) :
    ((Firmware.issueAll is u).slot k).active = v := by
  induction is generalizing u with
  | nil => exact hv.resolve_right (by simp)
  | cons i is ih =>
    rw [List.forall_mem_cons] at his hwrites
    obtain ⟨hi, his⟩ := his
    obtain ⟨hwrite, hwrites⟩ := hwrites
    have hacc : Accepted u.num u.act i := by rw [h.num, h.act]; exact hi
    have hlen : k < u.osc.length := h.inv.slot_lt_length h.ready (h.act ▸ hk)
    have hactive : ((Firmware.issue i u).slot k).active = (activeWrite k i).getD (u.slot k).active := by
      rw [Firmware.issue, hacc.exec h.ready]
      exact hacc.slot_active hlen
    refine ih (h.issue hi) his hwrites ?_
    rw [hactive]
    cases hw : activeWrite k i with
    | some b => exact .inl (hwrite b hw)
    | none =>
      obtain hv | ⟨i', hi', hv⟩ := hv
      · exact .inl hv
      · rcases List.mem_cons.1 hi' with rfl | hmem
        · cases hw.symm.trans hv
        · exact .inr ⟨i', hmem, hv⟩

end Accepted

/-! ## The spawns of a hop (R259, R263) -/

section Spawn

variable {rng : Nat → Nat} {pool : List Track} {peaks : List TrackMatch} {st : SpawnState} {m : TrackMatch}

/-- Everything a spawn does: a new track in a slot of the pool, which was `Dead` or is evicted. -/
theorem spawnOne_cases (rng : Nat → Nat) (m : TrackMatch) (hpos : 0 < st.pool.length) :
    ∃ j evicted evictions, j < st.pool.length ∧
      (evicted = false → ∃ t, st.pool[j]? = some t ∧ t.status = .dead) ∧
      spawnOne rng st m =
        { pool := st.pool.set j (Track.begin m)
          evictions := evictions
          spawned := j :: st.spawned
          commands := st.commands ++ spawnCommands evicted j m } := by
  rw [spawnOne]
  split
  · next j hj =>
    obtain ⟨hlt, hdead, -⟩ := List.findIdx?_eq_some_iff_getElem.1 hj
    exact ⟨j, false, st.evictions, hlt, fun _ => ⟨_, List.getElem?_eq_getElem hlt, by simpa using hdead⟩, rfl⟩
  · exact ⟨_, true, _, Nat.mod_lt _ hpos, nofun, rfl⟩

/-- What the spawns have made of a pool: the slots spawned into hold new tracks and were `Dead` or are stopped, the rest
is as it was, and the commands stop slots spawned into or start them from peaks. -/
structure Spawned (pool : List Track) (peaks : List TrackMatch) (st : SpawnState) : Prop where
  length : st.pool.length = pool.length
  kept : ∀ j ∉ st.spawned, st.pool[j]? = pool[j]?
  birth : ∀ j ∈ st.spawned, ∃ t, st.pool[j]? = some t ∧ t.status = .birth
  silenced : ∀ j ∈ st.spawned, (∃ t, pool[j]? = some t ∧ t.status = .dead) ∨
    .ostop (BitVec.ofNat 20 j) ∈ st.commands
  commands : ∀ i ∈ st.commands, ∃ j ∈ st.spawned, i = .ostop (BitVec.ofNat 20 j) ∨
    ∃ m ∈ peaks, i = .ostart (BitVec.ofNat 20 j) m.amplitude m.frequency m.phase

theorem mem_spawnCommands {evicted : Bool} {j : Nat} {i : Instr} : i ∈ spawnCommands evicted j m ↔
    (evicted = true ∧ i = .ostop (BitVec.ofNat 20 j)) ∨
    i = .ostart (BitVec.ofNat 20 j) m.amplitude m.frequency m.phase := by
  cases evicted <;> simp [spawnCommands]

theorem Spawned.spawnOne (h : Spawned pool peaks st) (hpos : 0 < pool.length) (hm : m ∈ peaks) :
    Spawned pool peaks (spawnOne rng st m) := by
  obtain ⟨j, evicted, evictions, hj, hdead, e⟩ := spawnOne_cases rng m (h.length ▸ hpos)
  rw [e]
  refine ⟨by rw [List.length_set, h.length], fun l hl => ?_, fun l hl => ?_, fun l hl => ?_, fun i hi => ?_⟩
  · obtain ⟨hne, hl⟩ := not_or.1 (mt List.mem_cons.2 hl)
    rw [List.getElem?_set_ne (Ne.symm hne), h.kept l hl]
  · by_cases hlj : l = j
    · subst hlj
      exact ⟨_, List.getElem?_set_self hj, rfl⟩
    · rw [List.getElem?_set_ne (Ne.symm hlj)]
      exact h.birth l ((List.mem_cons.1 hl).resolve_left hlj)
  · by_cases hold : l ∈ st.spawned
    · exact (h.silenced l hold).imp_right (List.mem_append_left _)
    obtain rfl : l = j := (List.mem_cons.1 hl).resolve_right hold
    cases evicted with
    | true => exact .inr (List.mem_append_right _ (mem_spawnCommands.2 (.inl ⟨rfl, rfl⟩)))
    | false => exact .inl (h.kept l hold ▸ hdead rfl)
  · rcases List.mem_append.1 hi with hi | hi
    · obtain ⟨l, hl, hi⟩ := h.commands i hi
      exact ⟨l, List.mem_cons_of_mem _ hl, hi⟩
    · exact ⟨j, List.mem_cons_self, (mem_spawnCommands.1 hi).imp And.right fun hi => ⟨m, hm, hi⟩⟩

theorem Spawned.foldl {ms : List TrackMatch} (h : Spawned pool peaks st) (hpos : 0 < pool.length)
    (hms : ∀ m ∈ ms, m ∈ peaks) : Spawned pool peaks (ms.foldl (Firmware.spawnOne rng) st) := by
  induction ms generalizing st with
  | nil => exact h
  | cons m ms ih =>
    rw [List.forall_mem_cons] at hms
    exact ih (h.spawnOne hpos hms.1) hms.2

theorem mem_of_mem_unassigned {budget : Option Nat} (h : m ∈ unassigned budget peaks) : m ∈ peaks := by
  cases budget with
  | none => exact List.mem_of_mem_filter h
  | some n => exact List.mem_of_mem_filter (List.mem_of_mem_take h)

end Spawn

/-! ## A slot that is not spawned into (R260, R261, R264) -/

section Kept

variable {N : NumType} {a : Active} {h : HostState} {hopSize : Word} {j k : Nat} {t : Track} {m : TrackMatch}
  {ms : List TrackMatch} {i : Instr}

/-- The commands of one slot that is not spawned into: those of step 7 and the activity update after it. -/
def keptCommands (hopSize : Word) (j : Nat) (isMatched : Bool) (before after : Track) : List Instr :=
  syncCommands hopSize j isMatched before after ++ activityCommands j before after

/-- A missed track that becomes `Dead` is stopped; any other stays as audible as it was, without a command. -/
theorem keptCommands_missed (h : HostState) (hopSize : Word) (j : Nat) (t : Track) :
    let after := t.update h.trackBirth h.trackDeath false
    (keptCommands hopSize j false t after = [] ∧ after.audible = t.audible) ∨
    (keptCommands hopSize j false t after = [.ostop (BitVec.ofNat 20 j)] ∧ after.audible = false) := by
  cases hst : t.status with
  | dead => exact .inl (by simp [Track.update_dead hst, keptCommands, syncCommands, activityCommands, hst])
  | birth =>
    exact .inr (by simp [Track.update_birth_miss hst, keptCommands, syncCommands, activityCommands, Track.audible, hst])
  | alive =>
    exact .inl (by simp [Track.update_alive_miss hst, keptCommands, syncCommands, activityCommands, Track.audible, hst])
  | dying =>
    rw [Track.update_dying_miss hst]
    by_cases hd : h.trackDeath ≤ t.dyingFrames + 1
    · exact .inr (by simp [keptCommands, syncCommands, activityCommands, Track.audible, hst, hd])
    · exact .inl (by simp [keptCommands, syncCommands, activityCommands, Track.audible, hst, hd])

/-- A matched track glides to its peak; it is enabled if it becomes `Alive` from `Birth`, and else stays as audible
as it was. -/
theorem keptCommands_matched (h : HostState) (hopSize : Word) (j : Nat) (m : TrackMatch) (ht : t.status ≠ .dead) :
    let after := (t.update h.trackBirth h.trackDeath true).take m
    let glide := Instr.oupd (BitVec.ofNat 20 j) m.amplitude m.frequency m.phase hopSize
    (keptCommands hopSize j true t after = [glide] ∧ after.audible = t.audible) ∨
    (keptCommands hopSize j true t after = [glide, .oact true (BitVec.ofNat 20 j)] ∧ after.audible = true) := by
  cases hst : t.status with
  | dead => exact absurd hst ht
  | birth =>
    rw [Track.update_birth_match hst]
    by_cases hb : h.trackBirth ≤ t.birthFrames + 1
    · exact .inr (by simp [keptCommands, syncCommands, activityCommands, Track.take, Track.audible, hst, hb])
    · exact .inl (by simp [keptCommands, syncCommands, activityCommands, Track.take, Track.audible, hst, hb])
  | alive =>
    rw [Track.update_alive_match hst]
    exact .inl (by simp [keptCommands, syncCommands, activityCommands, Track.take, Track.audible, hst])
  | dying =>
    rw [Track.update_dying_match hst]
    exact .inl (by simp [keptCommands, syncCommands, activityCommands, Track.take, Track.audible, hst])

/-- A slot number in the 20-bit field of a command (30_encoding.md R91). -/
theorem slotWord_toNat (hj : j < 2 ^ 20) : (BitVec.ofNat 20 j).toNat = j := by
  rw [BitVec.toNat_ofNat, Nat.mod_eq_of_lt hj]

/-- What the commands `is` of one slot do about its active bit, which is to become `v`: the block accepts them, they
write nothing else, and where they do not write it the bit is `v` already. -/
structure Activates (N : NumType) (a : Active) (j : Nat) (v before : Bool) (is : List Instr) : Prop where
  accepted : ∀ i ∈ is, Accepted N a i
  writes : ∀ i ∈ is, ∀ k b, activeWrite k i = some b → k = j ∧ b = v
  reached : before = v ∨ ∃ i ∈ is, activeWrite j i = some v

/-- The commands of a slot that is not spawned into bring its active bit to what its track is after step 6. -/
theorem activates_keptCommands (hj : j < a.slots) (hword : a.slots ≤ 2 ^ 20)
    (hms : ∀ m ∈ ms, Deliverable N (a.nyquist N) m) {claim : Option Nat}
    (hclaim : ∀ k, claim = some k → t.status ≠ .dead ∧ ∃ m, ms[k]? = some m) :
    Activates N a j (settle h ms false claim t).audible t.audible
      (keptCommands hopSize j claim.isSome t (settle h ms false claim t)) := by
  have hnum : (BitVec.ofNat 20 j).toNat = j := slotWord_toNat (hj.trans_le hword)
  have hslot : (BitVec.ofNat 20 j).toNat < a.slots := hnum.symm ▸ hj
  cases claim with
  | none =>
    obtain ⟨e, hv⟩ | ⟨e, hv⟩ := keptCommands_missed h hopSize j t
    · exact ⟨by simp [settle, e], by simp [settle, e], .inl hv.symm⟩
    · refine ⟨?_, ?_, .inr ⟨.ostop (BitVec.ofNat 20 j), ?_, ?_⟩⟩
      · simpa [settle, e] using Accepted.stop hslot
      · simp [settle, e, hv, activeWrite, hnum]
      · simp [settle, e]
      · simp [settle, hv, activeWrite, hnum]
  | some k =>
    obtain ⟨halive, m, hm⟩ := hclaim k rfl
    have hdeliver := hms m (List.mem_of_getElem? hm)
    have hsettle : settle h ms false (some k) t = (t.update h.trackBirth h.trackDeath true).take m := by
      simp [settle, hm]
    rw [hsettle]
    obtain ⟨e, hv⟩ | ⟨e, hv⟩ := keptCommands_matched h hopSize j m halive
    · refine ⟨?_, ?_, .inl hv.symm⟩
      · simpa [e] using Accepted.glide hslot hdeliver hopSize
      · simp [e, activeWrite]
    · refine ⟨?_, ?_, .inr ⟨.oact true (BitVec.ofNat 20 j), ?_, ?_⟩⟩
      · simpa [e] using ⟨Accepted.glide hslot hdeliver hopSize, Accepted.enable hslot⟩
      · simp [e, hv, activeWrite, hnum]
      · simp [e]
      · simp [hv, activeWrite, hnum]

end Kept

/-! ## The breakpoint pass (R254, R257 to R264) -/

section Breakpoint

variable {N : NumType} {matchWindow : NUM → NUM} {rng : Nat → Nat} {hopSize : Word} {h : HostState}
  {peaks : List TrackMatch} {i : Instr} {j : Nat} {t : Track}

/-- The peaks after step 4, with their marks. -/
def marked (N : NumType) (matchWindow : NUM → NUM) (h : HostState) (peaks : List TrackMatch) : List TrackMatch :=
  (assign N h.weights matchWindow h.pool peaks).2

/-- The peak a slot has claimed in step 4. -/
def claimAt (N : NumType) (matchWindow : NUM → NUM) (h : HostState) (peaks : List TrackMatch) (j : Nat) : Option Nat :=
  ((assign N h.weights matchWindow h.pool peaks).1[j]?).join

/-- What step 5 leaves. -/
def spawns (N : NumType) (matchWindow : NUM → NUM) (rng : Nat → Nat) (h : HostState) (peaks : List TrackMatch) :
    SpawnState :=
  (unassigned h.spawnBudget (marked N matchWindow h peaks)).foldl (spawnOne rng)
    { pool := h.pool, evictions := h.evictions, spawned := [], commands := [] }

/-- The pool after the pass, slot by slot. -/
theorem getElem?_breakpoint_pool (j : Nat) : (breakpoint N matchWindow rng hopSize h peaks).1.pool[j]? =
    (spawns N matchWindow rng h peaks).pool[j]?.map fun t =>
      settle h (marked N matchWindow h peaks) ((spawns N matchWindow rng h peaks).spawned.contains j)
        (claimAt N matchWindow h peaks j) t :=
  List.getElem?_mapIdx

/-- Slot `j` is one of the pool and not spawned into; `before` and `after` are its track before and after step 6. -/
structure KeptSlot (N : NumType) (matchWindow : NUM → NUM) (rng : Nat → Nat) (h : HostState) (peaks : List TrackMatch)
    (j : Nat) (before after : Track) : Prop where
  notSpawned : j ∉ (spawns N matchWindow rng h peaks).spawned
  before_eq : (spawns N matchWindow rng h peaks).pool[j]? = some before
  after_eq : after = settle h (marked N matchWindow h peaks) false (claimAt N matchWindow h peaks j) before

/-- The commands of the pass, slot by slot, as R261 orders them. -/
theorem breakpoint_commands_eq :
    let st := spawns N matchWindow rng h peaks
    let pool := (breakpoint N matchWindow rng hopSize h peaks).1.pool
    let before := fun j => st.pool.getD j (Track.initial N)
    let after := fun j => pool.getD j (Track.initial N)
    let kept := (List.range pool.length).filter fun j => !st.spawned.contains j
    (breakpoint N matchWindow rng hopSize h peaks).2 =
      kept.flatMap (fun j => syncCommands hopSize j (claimAt N matchWindow h peaks j).isSome (before j) (after j)) ++
        st.commands ++ kept.flatMap fun j => activityCommands j (before j) (after j) :=
  rfl

/-- What stands in the commands of the slots that are not spawned into, one after the other. -/
theorem mem_flatMap_kept (f : Nat → Track → Track → List Instr) :
    let st := spawns N matchWindow rng h peaks
    let pool := (breakpoint N matchWindow rng hopSize h peaks).1.pool
    i ∈ ((List.range pool.length).filter fun j => !st.spawned.contains j).flatMap
        (fun j => f j (st.pool.getD j (Track.initial N)) (pool.getD j (Track.initial N))) ↔
      ∃ j before after, KeptSlot N matchWindow rng h peaks j before after ∧ i ∈ f j before after := by
  intro st pool
  have hpool (j : Nat) : pool[j]? = _ := getElem?_breakpoint_pool j
  rw [List.mem_flatMap]
  constructor
  · rintro ⟨j, hj, hi⟩
    obtain ⟨hlt, hkept⟩ := List.mem_filter.1 hj
    have hnot : st.spawned.contains j = false := by simpa using hkept
    have hafter := List.getElem?_eq_getElem (List.mem_range.1 hlt)
    obtain ⟨before, hbefore, hsettle⟩ := Option.map_eq_some_iff.1 ((hpool j).symm.trans hafter)
    rw [hnot] at hsettle
    rw [List.getD_eq_getElem?_getD, List.getD_eq_getElem?_getD, hbefore, hafter] at hi
    exact ⟨j, before, _, ⟨by simpa using hnot, hbefore, hsettle.symm⟩, hi⟩
  · rintro ⟨j, before, after, ⟨hnot, hbefore, hsettle⟩, hi⟩
    have hnot' : st.spawned.contains j = false := by simpa using hnot
    have hafter : pool[j]? = some after := by rw [hpool, hbefore, hnot', hsettle]; rfl
    obtain ⟨hlt, -⟩ := List.getElem?_eq_some_iff.1 hafter
    refine ⟨j, List.mem_filter.2 ⟨List.mem_range.2 hlt, by rw [hnot']; rfl⟩, ?_⟩
    rwa [List.getD_eq_getElem?_getD, List.getD_eq_getElem?_getD, hbefore, hafter]

/-- The commands of the pass: those of the spawns, and those of each slot that is not spawned into. -/
theorem mem_breakpoint_commands : i ∈ (breakpoint N matchWindow rng hopSize h peaks).2 ↔
    i ∈ (spawns N matchWindow rng h peaks).commands ∨
    ∃ j before after, KeptSlot N matchWindow rng h peaks j before after ∧
      i ∈ keptCommands hopSize j (claimAt N matchWindow h peaks j).isSome before after := by
  have sync := mem_flatMap_kept (N := N) (matchWindow := matchWindow) (rng := rng) (hopSize := hopSize) (h := h)
    (peaks := peaks) (i := i) fun j => syncCommands hopSize j (claimAt N matchWindow h peaks j).isSome
  rw [breakpoint_commands_eq, List.mem_append, List.mem_append]
  refine (or_congr (or_congr_left sync) (mem_flatMap_kept activityCommands)).trans ?_
  simp only [keptCommands, List.mem_append]
  constructor
  · rintro ((⟨j, before, after, hslot, hi⟩ | hi) | ⟨j, before, after, hslot, hi⟩)
    · exact .inr ⟨j, before, after, hslot, .inl hi⟩
    · exact .inl hi
    · exact .inr ⟨j, before, after, hslot, .inr hi⟩
  · rintro (hi | ⟨j, before, after, hslot, hi | hi⟩)
    · exact .inl (.inr hi)
    · exact .inl (.inl ⟨j, before, after, hslot, hi⟩)
    · exact .inr ⟨j, before, after, hslot, hi⟩

theorem afterClaim_length (w : Weights) (t : Track) (claim : Option Nat) (ms : List TrackMatch) :
    (afterClaim N w t claim ms).length = ms.length := by
  cases claim with
  | none => rfl
  | some k => exact List.length_modify ..

/-- The marks of a claim do not touch what is delivered to an oscillator. -/
theorem deliverable_afterClaim {nyquist : NUM} {ms : List TrackMatch} (hms : ∀ m ∈ ms, Deliverable N nyquist m)
    (w : Weights) (t : Track) (claim : Option Nat) : ∀ m ∈ afterClaim N w t claim ms, Deliverable N nyquist m := by
  cases claim with
  | none => exact hms
  | some k =>
    intro m hm
    obtain ⟨l, hl⟩ := List.getElem?_of_mem hm
    rw [afterClaim, markAssigned, List.getElem?_modify] at hl
    obtain ⟨q, hq, rfl⟩ := Option.map_eq_some_iff.1 hl
    have hdeliver := hms q (List.mem_of_getElem? hq)
    split
    · exact ⟨hdeliver.amplitude, hdeliver.frequency, hdeliver.phase⟩
    · exact hdeliver

theorem assign_peaks_length {w : Weights} {pool : List Track} {ms : List TrackMatch} :
    (assign N w matchWindow pool ms).2.length = ms.length := by
  induction pool generalizing ms with
  | nil => rfl
  | cons t ts ih => rw [assign_cons, ih, afterClaim_length]

theorem deliverable_assign {nyquist : NUM} {w : Weights} {pool : List Track} {ms : List TrackMatch}
    (hms : ∀ m ∈ ms, Deliverable N nyquist m) :
    ∀ m ∈ (assign N w matchWindow pool ms).2, Deliverable N nyquist m := by
  induction pool generalizing ms with
  | nil => exact hms
  | cons t ts ih =>
    rw [assign_cons]
    exact ih (deliverable_afterClaim hms w t _)

/-- A claim of step 4 is of a peak that exists, by a track that is not `Dead`. -/
theorem claimAt_spec (hN : N.Lawful) {k : Nat} (hclaim : claimAt N matchWindow h peaks j = some k) :
    ∃ t m, h.pool[j]? = some t ∧ t.status ≠ .dead ∧ (marked N matchWindow h peaks)[k]? = some m := by
  obtain ⟨t, m, ht, hm, halive, -⟩ := claim_spec hN (Option.join_eq_some_iff.1 hclaim)
  obtain ⟨hk, -⟩ := List.getElem?_eq_some_iff.1 hm
  exact ⟨t, _, ht, halive, List.getElem?_eq_getElem (hk.trans_eq assign_peaks_length.symm)⟩

theorem deliverable_marked {nyquist : NUM} (hpeaks : ∀ m ∈ peaks, Deliverable N nyquist m) :
    ∀ m ∈ marked N matchWindow h peaks, Deliverable N nyquist m :=
  deliverable_assign hpeaks

theorem spawned_spawns (hpos : 0 < h.pool.length) :
    Spawned h.pool (marked N matchWindow h peaks) (spawns N matchWindow rng h peaks) :=
  Spawned.foldl ⟨rfl, fun _ _ => rfl, nofun, nofun, nofun⟩ hpos fun _ => mem_of_mem_unassigned

end Breakpoint

section Sync

variable {s : State} {matchWindow : NUM → NUM} {rng : Nat → Nat} {hopSize : Word} {h : HostState}
  {peaks : List TrackMatch} {i : Instr} {j k : Nat} {before after : Track}

/-- What the pass is run on: a ready block with the invariant, a pool with a track for each of its slots, and peaks as
`GETPK` delivers them. -/
structure PassReady (s : State) (h : HostState) (peaks : List TrackMatch) : Prop where
  ready : Ready s
  inv : Inv s
  fits : h.fits s
  peaks : ∀ m ∈ peaks, Deliverable s.num (s.act.nyquist s.num) m

theorem PassReady.lawful (p : PassReady s h peaks) : s.num.Lawful := p.inv.params.num

theorem PassReady.slots_bounds (p : PassReady s h peaks) : 0 < s.act.slots ∧ s.act.slots ≤ 2 ^ 20 := by
  have g := (p.inv.configured p.ready.2).geometry
  have := g.slotsMin; have := g.slotsMax; have := p.inv.params.noscIndex
  omega

theorem PassReady.spawned (p : PassReady s h peaks) :
    Spawned h.pool (marked s.num matchWindow h peaks) (spawns s.num matchWindow rng h peaks) :=
  spawned_spawns (p.slots_bounds.1.trans_eq p.fits.symm)

/-- The slots of the pool after the spawns are those of the block. -/
theorem PassReady.lt_slots (p : PassReady s h peaks) {t : Track}
    (ht : (spawns s.num matchWindow rng h peaks).pool[j]? = some t) : j < s.act.slots := by
  obtain ⟨hj, -⟩ := List.getElem?_eq_some_iff.1 ht
  exact hj.trans_eq (p.spawned.length.trans p.fits)

/-- The commands of a spawn are accepted, and write the active bit of the slot only, to 0. -/
theorem PassReady.spawn_command (p : PassReady s h peaks)
    (hi : i ∈ (spawns s.num matchWindow rng h peaks).commands) :
    Accepted s.num s.act i ∧ ∀ k b, activeWrite k i = some b →
      k ∈ (spawns s.num matchWindow rng h peaks).spawned ∧ b = false := by
  obtain ⟨j, hj, hi⟩ := p.spawned.commands i hi
  obtain ⟨t, ht, -⟩ := p.spawned.birth j hj
  have hlt := p.lt_slots ht
  have hnum : (BitVec.ofNat 20 j).toNat = j := slotWord_toNat (hlt.trans_le p.slots_bounds.2)
  have hslot : (BitVec.ofNat 20 j).toNat < s.act.slots := hnum.symm ▸ hlt
  obtain rfl | ⟨m, hm, rfl⟩ := hi
  · refine ⟨.stop hslot, fun k b hb => ?_⟩
    simp only [activeWrite, hnum, Option.ite_none_right_eq_some, Option.some.injEq] at hb
    obtain ⟨rfl, rfl⟩ := hb
    exact ⟨hj, rfl⟩
  · exact ⟨.start hslot (deliverable_marked p.peaks m hm), nofun⟩

/-- The commands of a slot that is not spawned into bring its active bit to what its track is after step 6. -/
theorem PassReady.kept_commands (p : PassReady s h peaks)
    (hslot : KeptSlot s.num matchWindow rng h peaks j before after) :
    Activates s.num s.act j after.audible before.audible
      (keptCommands hopSize j (claimAt s.num matchWindow h peaks j).isSome before after) := by
  obtain ⟨hnot, hbefore, rfl⟩ := hslot
  refine activates_keptCommands (p.lt_slots hbefore) p.slots_bounds.2 (deliverable_marked p.peaks) fun k hclaim => ?_
  obtain ⟨t, m, ht, halive, hm⟩ := claimAt_spec p.lawful hclaim
  obtain rfl : before = t := Option.some.inj ((hbefore.symm.trans (p.spawned.kept j hnot)).trans ht)
  exact ⟨halive, m, hm⟩

theorem PassReady.accepted (p : PassReady s h peaks) :
    ∀ i ∈ (breakpoint s.num matchWindow rng hopSize h peaks).2, Accepted s.num s.act i := by
  intro i hi
  obtain hi | ⟨j, before, after, hslot, hi⟩ := mem_breakpoint_commands.1 hi
  · exact (p.spawn_command hi).1
  · exact (p.kept_commands hslot).accepted i hi

/-- A slot spawned into ends the pass not active (R263). -/
theorem PassReady.active_of_spawned (p : PassReady s h peaks)
    (hsync : ∀ (j : Nat) (t : Track), h.pool[j]? = some t → (s.slot j).active = t.audible)
    (hj : j ∈ (spawns s.num matchWindow rng h peaks).spawned) :
    ((issueAll (breakpoint s.num matchWindow rng hopSize h peaks).2 s).slot j).active = false := by
  obtain ⟨t, ht, -⟩ := p.spawned.birth j hj
  have hlt := p.lt_slots ht
  refine (InService.refl p.ready p.inv).slot_active_issueAll p.accepted hlt (fun i hi b hb => ?_) ?_
  · obtain hi | ⟨l, before, after, hslot, hi⟩ := mem_breakpoint_commands.1 hi
    · exact ((p.spawn_command hi).2 j b hb).2
    · obtain ⟨rfl, -⟩ := (p.kept_commands hslot).writes i hi j b hb
      exact absurd hj hslot.notSpawned
  · obtain ⟨t', ht', hdead⟩ | hstop := p.spawned.silenced j hj
    · exact .inl ((hsync j t' ht').trans (by simp [Track.audible, hdead]))
    · refine .inr ⟨_, mem_breakpoint_commands.2 (.inl hstop), ?_⟩
      rw [activeWrite, slotWord_toNat (hlt.trans_le p.slots_bounds.2), if_pos rfl]

/-- A slot that is not spawned into ends the pass active exactly where its track is audible (R254, R264). -/
theorem PassReady.active_of_kept (p : PassReady s h peaks)
    (hsync : ∀ (j : Nat) (t : Track), h.pool[j]? = some t → (s.slot j).active = t.audible)
    (hslot : KeptSlot s.num matchWindow rng h peaks j before after) :
    ((issueAll (breakpoint s.num matchWindow rng hopSize h peaks).2 s).slot j).active = after.audible := by
  have hbefore := (p.spawned.kept j hslot.notSpawned).symm.trans hslot.before_eq
  refine (InService.refl p.ready p.inv).slot_active_issueAll p.accepted (p.lt_slots hslot.before_eq)
    (fun i hi b hb => ?_) ?_
  · obtain hi | ⟨l, before', after', hslot', hi⟩ := mem_breakpoint_commands.1 hi
    · exact absurd ((p.spawn_command hi).2 j b hb).1 hslot.notSpawned
    · obtain ⟨rfl, rfl⟩ := (p.kept_commands hslot').writes i hi j b hb
      obtain rfl : before' = before := Option.some.inj (hslot'.before_eq.symm.trans hslot.before_eq)
      rw [hslot'.after_eq, hslot.after_eq]
  · rw [hsync j before hbefore]
    refine (p.kept_commands (hopSize := hopSize) hslot).reached.imp_right fun ⟨i, hi, hwrite⟩ => ?_
    exact ⟨i, mem_breakpoint_commands.2 (.inr ⟨j, before, after, hslot, hi⟩), hwrite⟩

/-- Settles O54: the block accepts every command of the pass, and each slot's commands bring its active bit to what its
track has become. -/
theorem syncKeepsAudibleSet : Obligations.SyncKeepsAudibleSet := by
  unfold Obligations.SyncKeepsAudibleSet
  intro matchWindow rng h peaks s hs hinv hfits hpeaks hsync r u
  have p : PassReady s h peaks := ⟨hs, hinv, hfits, fun m hm => ⟨(hpeaks m hm).1, (hpeaks m hm).2.1, (hpeaks m hm).2.2⟩⟩
  have hu : InService s u := (InService.refl hs hinv).issueAll p.accepted
  refine ⟨hu.ready, hu.inv, hu.params, hu.act, hu.errCnt, ?_, fun j t ht => ?_⟩
  · rw [HostState.fits, hu.act, ← hfits, ← p.spawned.length]
    exact List.length_mapIdx
  · rw [getElem?_breakpoint_pool] at ht
    obtain ⟨before, hbefore, rfl⟩ := Option.map_eq_some_iff.1 ht
    by_cases hj : j ∈ (spawns s.num matchWindow rng h peaks).spawned
    · obtain ⟨t, ht, hbirth⟩ := p.spawned.birth j hj
      obtain rfl : before = t := Option.some.inj (hbefore.symm.trans ht)
      have hsettle : settle h (marked s.num matchWindow h peaks)
          ((spawns s.num matchWindow rng h peaks).spawned.contains j) (claimAt s.num matchWindow h peaks j) before =
          before := by
        rw [List.contains_iff_mem.2 hj]
        rfl
      rw [hsettle]
      exact (p.active_of_spawned hsync hj).trans (by simp [Track.audible, hbirth])
    · have hcontains : (spawns s.num matchWindow rng h peaks).spawned.contains j = false := by simpa using hj
      rw [hcontains]
      exact p.active_of_kept hsync ⟨hj, hbefore, rfl⟩

end Sync

/-! ## The host's start (R250, R251) -/

/-- Settles O60: the pool is as long as the bank that `INIT` establishes, and both hold initial values only. -/
theorem hostStartsInSync : Obligations.HostStartsInSync := by
  unfold Obligations.HostStartsInSync
  intro birth death s hc
  refine ⟨_, exec_init_legal hc, List.length_replicate, List.length_replicate, rfl, rfl, rfl, rfl, rfl,
    fun j k hk => ?_⟩
  obtain rfl : k = Track.initial s.num := List.eq_of_mem_replicate (List.mem_of_getElem? hk)
  refine ⟨rfl, ?_, rfl⟩
  have hj : j < (List.replicate s.staged.maxTrk.toNat (Osc.zero s.num)).length := by
    obtain ⟨hlt, -⟩ := List.getElem?_eq_some_iff.1 hk
    exact hlt.trans_eq (List.length_replicate.trans List.length_replicate.symm)
  exact congrArg Osc.active (List.eq_of_mem_replicate (slot_mem_osc (s := operation .init s) hj))

end Sys2Proof.Firmware

namespace Sys2Proof.Machine

open Sys2Proof.Firmware

variable {s : State} {j : Nat}

/-! ## The slots below `M` (R241) -/

/-- The first `n` elements that satisfy `p` are those read at the indices that do, if what is read outside the list does
not satisfy it. -/
theorem filter_take_eq_map_getD {α : Type} {p : α → Bool} {d : α} (hd : p d = false) (l : List α) (n : Nat) :
    (l.take n).filter p = ((List.range n).filter fun k => p (l.getD k d)).map fun k => l.getD k d := by
  induction n with
  | zero => rfl
  | succ n ih =>
    rw [List.take_add_one, List.filter_append, ih, List.range_succ, List.filter_append, List.map_append,
      List.filter_singleton, List.getD_eq_getElem?_getD]
    cases hl : l[n]? with
    | none => simp [hd]
    | some x => cases hx : p x <;> simp [hl, hx]

/-- The indices of the active slots, ascending. -/
def activeSlots (s : State) : List Nat := (List.range s.act.slots).filter fun k => (s.slot k).active

/-- The sum is over the active slots in ascending order. -/
theorem mixSum_eq (s : State) (acc : NUM) : mixSum s.num s.wt acc (s.osc.take s.act.slots) =
    (activeSlots s).foldl (fun sum k => s.num.add sum ((s.slot k).sample s.num s.wt)) acc := by
  rw [mixSum, filter_take_eq_map_getD (d := Osc.absent) rfl, List.foldl_map]
  rfl

/-- In a ready block with the invariant a slot number fits the 20-bit field of a command (30_encoding.md R91). -/
theorem Inv.slotNumber_toNat (hinv : Inv s) (hs : Ready s) (hj : j < s.act.slots) : (BitVec.ofNat 20 j).toNat = j := by
  have := (hinv.configured hs.2).geometry.slotsMax
  have := hinv.params.noscIndex
  exact slotWord_toNat (by omega)

/-- What `ONEXT` on one slot alone leaves and answers. -/
theorem issue_onext (hinv : Inv s) (hs : Ready s) (hj : j < s.act.slots) :
    lastResult (issue (.onext (BitVec.ofNat 20 j)) s) = (s.slot j).sample s.num s.wt ∧
    (issue (.onext (BitVec.ofNat 20 j)) s).slot j = (s.slot j).advance s.num s.act.tabLen s.act.sampleRate := by
  have hnum := hinv.slotNumber_toNat hs hj
  have hissue : issue (.onext (BitVec.ofNat 20 j)) s = operation (.onext (BitVec.ofNat 20 j)) s := by
    rw [issue, exec_onext hs (hnum.symm ▸ hj)]
  have hslot := slot_onext (j := BitVec.ofNat 20 j) (hnum.symm ▸ hinv.slot_lt_length hs hj)
  rw [hnum] at hslot
  rw [hissue]
  refine ⟨?_, hslot⟩
  rw [operation, hnum]
  rfl

/-- An `RDS` advances every active slot below `M`. -/
theorem slot_mixSlots_active (hlen : j < s.osc.length) (hj : j < s.act.slots) (h : (s.slot j).active = true) :
    (mixSlots s).getD j Osc.absent = (s.slot j).advance s.num s.act.tabLen s.act.sampleRate := by
  have hslot : s.osc[j]? = some (s.slot j) := by
    rw [State.slot, List.getD_eq_getElem?_getD, List.getElem?_eq_getElem hlen, Option.getD_some]
  rw [List.getD_eq_getElem?_getD, getElem?_mixSlots, hslot, Option.map_some, if_pos ⟨hj, h⟩, Option.getD_some]

/-- The output sample in terms of what each active slot answers alone. -/
theorem mixOutput_eq (hinv : Inv s) (hs : Ready s) : mixOutput s =
    if (activeSlots s).length = 0 then s.num.zero
    else
      let sum := (activeSlots s).foldl
        (fun acc k => s.num.add acc (lastResult (issue (.onext (BitVec.ofNat 20 k)) s))) s.num.zero
      let gained := s.num.mul (normalise s.num s.normMode (activeSlots s).length sum) s.mixGain
      if s.denorm then s.num.mul gained s.denormFactor else gained := by
  have alone : ∀ acc, ∀ k ∈ activeSlots s, s.num.add acc (lastResult (issue (.onext (BitVec.ofNat 20 k)) s)) =
      s.num.add acc ((s.slot k).sample s.num s.wt) := fun acc k hk => by
    obtain ⟨hk, -⟩ := List.mem_filter.1 hk
    rw [(issue_onext hinv hs (List.mem_range.1 hk)).1]
  rw [List.foldl_ext _ _ _ alone, ← mixSum_eq, mixOutput, activeCount_eq]
  rfl

/-- Settles O50: the sum over the active slots, whose terms and whose slots afterwards are those of `ONEXT`. -/
theorem rdsMixesActiveSlots : Obligations.RdsMixesActiveSlots := by
  unfold Obligations.RdsMixesActiveSlots
  refine ⟨congrArg (fun h => [h]) (mkHdr_eq_hdr _ _ _), fun s =>
    ⟨readyGuard_of_checks (cs := []) nofun (List.append_nil _).symm, fun hs hinv => ?_⟩⟩
  have hx : exec .rds s = .next (operation .rds s) := runChecked_of_none _ _ (readyChecks_none.2 hs)
  refine ⟨_, hx, ?_⟩
  intro N act alone n sum scaledSum gained out
  refine ⟨?_, fun j hj ha => ?_, fun j ha => slot_mixSlots_inactive ha, ?_, rfl⟩
  · exact congrArg (fun res : Word => some (Response.mk 0 res)) (mixOutput_eq hinv hs)
  · exact (slot_mixSlots_active (hinv.slot_lt_length hs hj) hj ha).trans (issue_onext hinv hs hj).2.symm
  · have hlen := (hinv.configured hs.2).fits.osc
    exact (mixSlots_length hlen).trans hlen.symm

end Sys2Proof.Machine

namespace Sys2Proof.Machine

variable {s t : State} {i : Instr}

/-! ## The order of the failure conditions (R288) -/

/-- The conditions that come after those on the state of the block (R288 steps 4 to 7). -/
def laterConditions (i : Instr) (s : State) : List (Bool × Status) :=
  [(wrongMode s i, .state), (readOnlyTarget i, .rdonly), (indexOutside s i, .index)] ++ badOperands s i

/-- The conditions of a command other than `INIT`: the configuration is none of them. -/
theorem firstError_errorConditions (hi : i ≠ .init) : firstError (errorConditions i s) =
    firstError ((!i.wellFormed, .illegal) :: (s.halt && !runsHalted i, .halted) ::
      (s.mode == .unconf && !runsUnconfigured i, .notInit) :: laterConditions i s) := by
  rw [errorConditions, firstError_append, beq_false_of_ne hi]
  exact Option.or_none

/-- The conditions of a command that needs a ready block: its encoding, then the ready checks, then the rest. -/
theorem firstError_errorConditions_ready (hh : runsHalted i = false) (hu : runsUnconfigured i = false) :
    firstError (errorConditions i s) =
      firstError ((!i.wellFormed, .illegal) :: (readyChecks s ++ laterConditions i s)) := by
  have hi : i ≠ .init := by rintro rfl; cases hh
  rw [firstError_errorConditions hi, hh, hu, Bool.not_false, Bool.and_true, Bool.and_true]
  rfl

/-- Of a command that needs a ready block and cannot be ill-formed only the later conditions remain to compare. -/
theorem firstError_errorConditions_of_later (hh : runsHalted i = false) (hu : runsUnconfigured i = false)
    (hwf : i.wellFormed = true) {cs : List (Bool × Status)} (hc : checks i s = readyChecks s ++ cs)
    (hlater : firstError (laterConditions i s) = firstError cs) :
    firstError (errorConditions i s) = firstError (checks i s) := by
  rw [firstError_errorConditions_ready hh hu, hwf, hc, firstError_append, ← hlater, ← firstError_append]
  rfl

/-- A `WRREG` is ill-formed where it is an illegal write (R98). -/
theorem not_wellFormed_wrreg (r : Reg) (v : Word) : (!(Instr.wrreg r v).wellFormed) = illegalWrite r v := by
  cases r <;> rfl

/-- The checks of a command give the first of its failure conditions. -/
theorem firstError_errorConditions_eq_checks (hi : i ≠ .init) :
    firstError (errorConditions i s) = firstError (checks i s) := by
  cases i with
  | init => exact absurd rfl hi
  | nop | rdreg r =>
    rw [firstError_errorConditions hi]
    simp [checks, Instr.wellFormed, runsHalted, runsUnconfigured, laterConditions, wrongMode, readOnlyTarget,
      indexOutside, badOperands]
  | wrreg r v =>
    rw [firstError_errorConditions hi, not_wellFormed_wrreg]
    simp [checks, haltedCheck, runsHalted, runsUnconfigured, laterConditions, wrongMode, readOnlyTarget, indexOutside,
      badOperands, regReadOnly]
  | wtgen force kind =>
    rw [firstError_errorConditions_ready rfl rfl, firstError_cons, firstError_append]
    simp [checks, Instr.wellFormed, laterConditions, wrongMode, readOnlyTarget, indexOutside, badOperands]
  | wrs | rdo | peaks | rds => exact firstError_errorConditions_of_later rfl rfl rfl (List.append_nil _).symm rfl
  | xfmFft | xfmIfft | getwt | getpk | ostop | onext | oact | getosc =>
    exact firstError_errorConditions_of_later rfl rfl rfl rfl rfl
  | getbin a k => exact firstError_errorConditions_of_later rfl rfl rfl rfl (by cases a <;> rfl)
  | setbin a k v => exact firstError_errorConditions_of_later rfl rfl rfl rfl (by cases a <;> rfl)
  | ostart j a f p | oupd j a f p n =>
    exact firstError_errorConditions_of_later rfl rfl rfl (List.append_assoc ..) rfl

/-- The conditions of `INIT`: the configuration alone. -/
theorem firstError_errorConditions_init :
    firstError (errorConditions .init s) = if configLegal s.params s.staged then none else some .config := by
  cases hc : configLegal s.params s.staged <;>
    simp [errorConditions, Instr.wellFormed, runsHalted, runsUnconfigured, wrongMode, readOnlyTarget, indexOutside,
      badOperands, hc]

/-- Everything `INIT` can do. -/
theorem exec_init_cases (h : exec .init s = .next t) :
    (configLegal s.params s.staged = true ∧ t = operation .init s) ∨
    (configLegal s.params s.staged = false ∧ t = raiseError .config (discard s)) := by
  obtain ⟨-, hc, ht⟩ | ⟨-, hc, ht⟩ | ⟨hi, -⟩ | ⟨hi, -⟩ := exec_cases h
  · exact .inl ⟨hc, ht⟩
  · exact .inr ⟨hc, ht⟩
  · exact absurd rfl hi
  · exact absurd rfl hi

/-- The code of the first failure condition, `OK` if there is none. -/
def codeOf (e : Option Status) : Word := (e.map Status.code).getD 0

/-- Every command answers the code of its first failure condition. -/
theorem responseCode_exec (h : exec i s = .next t) :
    responseCode t = some (codeOf (firstError (errorConditions i s))) := by
  by_cases hi : i = .init
  · subst hi
    rw [firstError_errorConditions_init]
    obtain ⟨hc, rfl⟩ | ⟨hc, rfl⟩ := exec_init_cases h <;> rw [hc] <;> rfl
  · rw [firstError_errorConditions_eq_checks hi]
    obtain ⟨hc, -, hr⟩ | ⟨c, hc, -, hr, -⟩ := exec_answer hi h <;> rw [hc, hr] <;> rfl

theorem step_of_decode_error {ws : List Word} {rest : List PortEvent} {e : DecodeError}
    (hport : s.port = .packet ws :: rest) (he : decode ws = .error e) :
    step s = .next (raiseError .illegal { s with port := rest }) := by
  rw [step_of_port_packet hport]
  exact runPacket_of_not_decodes (by simp [he]) _

/-- Settles O9: the checks of a command are its failure conditions, in the same order. -/
theorem errorPriority : Obligations.ErrorPriority := by
  unfold Obligations.ErrorPriority
  refine ⟨fun i s => ?_, fun s ws rest e hport he => ⟨_, step_of_decode_error hport he, rfl⟩⟩
  obtain ⟨t, h⟩ := exec_next i s
  refine ⟨t, h, (responseCode_exec h).trans ?_⟩
  cases firstError (errorConditions i s) <;> rfl

/-! ## The codes of each command (R282) -/

/-- Every check of a command carries a code that the table lists for it. -/
theorem checks_code_mem (i : Instr) (s : State) : ∀ x ∈ checks i s, x.2 ∈ allowedCodes i := by
  cases i <;> simp [checks, allowedCodes, readyChecks, haltedCheck, slotChecks, indexCheck, oscOperandChecks]

/-- A command answers `OK` or a code that the table lists for it. -/
theorem responseCode_mem_allowedCodes (h : exec i s = .next t) :
    responseCode t = some 0 ∨ ∃ c ∈ allowedCodes i, responseCode t = some c.code := by
  by_cases hi : i = .init
  · subst hi
    obtain ⟨-, rfl⟩ | ⟨-, rfl⟩ := exec_init_cases h
    · exact .inl rfl
    · exact .inr ⟨.config, by simp [allowedCodes], rfl⟩
  · obtain ⟨-, -, hr⟩ | ⟨c, hc, -, hr, -⟩ := exec_answer hi h
    · exact .inl hr
    · exact .inr ⟨c, checks_code_mem i s _ (firstError_mem hc), hr⟩

/-! ## What an error does (R285, R286) -/

/-- The halting codes (R284). -/
theorem Status.halting_eq (c : Status) : c.halting = (c.code == 4 || c.code == 6 || c.code == 9) := by
  cases c <;> rfl

/-- The error log of a state (10_state.md R42). -/
def errorLog (s : State) : Word × Word × Word := (s.errFirst, s.errLast, s.errCnt)

/-- No Operation writes the error log. -/
theorem errorLog_operation (i : Instr) (s : State) : errorLog (operation i s) = errorLog s := by
  cases i with
  | wrreg r v => cases r <;> rfl
  | setbin a k v => cases a <;> rfl
  | wtgen force kind => obtain ⟨-, e⟩ | e := operation_wtgen_cases force kind s <;> rw [e] <;> rfl
  | _ => rfl

/-- Everything a packet can do: an Operation that leaves the error log, an error of a command or of the encoding, or a
failing `INIT`. -/
theorem runPacket_cases {ws : List Word} (h : runPacket ws s = .next t) :
    (responseCode t = some 0 ∧ errorLog t = errorLog s) ∨
    (decode ws ≠ .ok .init ∧ ∃ c : Status, c ≠ .ok ∧ t = raiseError c s) ∨
    (decode ws = .ok .init ∧ t = raiseError .config (discard s)) := by
  cases hd : decode ws with
  | error e =>
    rw [runPacket_of_not_decodes (by simp [hd])] at h
    cases h
    exact .inr (.inl ⟨nofun, .illegal, nofun, rfl⟩)
  | ok i =>
    rw [runPacket_of_decode hd] at h
    obtain ⟨rfl, -, rfl⟩ | ⟨rfl, -, rfl⟩ | ⟨-, -, rfl⟩ | ⟨hi, c, -, hc, rfl⟩ := exec_cases h
    · exact .inl ⟨responseCode_operation _ _, errorLog_operation _ _⟩
    · exact .inr (.inr ⟨rfl, rfl⟩)
    · exact .inl ⟨responseCode_operation _ _, errorLog_operation _ _⟩
    · exact .inr (.inl ⟨fun e => hi (Except.ok.inj e), c, hc, rfl⟩)

/-- Settles O8, by everything a packet can do. -/
theorem errorEffect : Obligations.ErrorEffect := by
  unfold Obligations.ErrorEffect
  intro s t ws rest hport h
  rw [step_of_port_packet hport] at h
  obtain ⟨hr, hlog⟩ | ⟨hd, c, hc, rfl⟩ | ⟨hd, rfl⟩ := runPacket_cases h
  · obtain ⟨r, hr, hok⟩ := Option.map_eq_some_iff.1 hr
    simp only [errorLog, Prod.mk.injEq] at hlog
    exact ⟨r, hr, fun _ => hlog, absurd hok⟩
  · refine ⟨_, rfl, fun h0 => absurd (raiseError_code_ne_zero.1 h0) hc, fun _ => ⟨rfl, rfl, rfl, rfl, fun _ => ?_,
      fun h => absurd h hd⟩⟩
    rw [← Status.halting_eq]
    rfl
  · exact ⟨_, rfl, nofun, fun _ => ⟨rfl, rfl, rfl, rfl, absurd hd, fun _ => ⟨(ArraysVoid.discard _).raiseError _,
      rfl, rfl, rfl, rfl, rfl, rfl, rfl, rfl, rfl, rfl, rfl, rfl, rfl, rfl, rfl⟩⟩⟩

/-- Settles O11: what `INIT` discards, then the error. -/
theorem initFailure : Obligations.InitFailure := by
  unfold Obligations.InitFailure
  intro s hc
  exact ⟨_, exec_init_illegal hc, rfl, rfl, rfl, rfl, rfl, rfl, (ArraysVoid.discard s).raiseError _, rfl, rfl, rfl, rfl,
    rfl, rfl, rfl, rfl, rfl, rfl, rfl, rfl⟩

/-! ## The `HALT` latch (R283) -/

/-- A halted block refuses every command but `NOP`, `RDREG` and `INIT`, unless its encoding is illegal. -/
theorem exec_of_halted (hh : s.halt = true) (hi : runsHalted i = false) (h : exec i s = .next t) :
    t = raiseError (if i.wellFormed then .halted else .illegal) s := by
  have hinit : i ≠ .init := by rintro rfl; cases hi
  have hfirst : firstError (checks i s) = some (if i.wellFormed then .halted else .illegal) := by
    rw [← firstError_errorConditions_eq_checks hinit, firstError_errorConditions hinit, hh, hi]
    cases i.wellFormed <;> rfl
  rw [exec_eq hinit, runChecked_of_some _ _ hfirst] at h
  cases h
  rfl

/-- What a command answers and what it does to `HALT`: a halting code sets it, any other answer but that of `INIT` keeps
it. -/
theorem exec_halt_answer (h : exec i s = .next t) :
    (i = .init ∧ t.halt = false ∧ (responseCode t = some 0 ∨ responseCode t = some 3)) ∨
    (i ≠ .init ∧ ∃ c : Status, responseCode t = some c.code ∧ t.halt = (s.halt || c.halting)) := by
  obtain ⟨rfl, -, rfl⟩ | ⟨rfl, -, rfl⟩ | ⟨hi, -, rfl⟩ | ⟨hi, c, -, -, rfl⟩ := exec_cases h
  · exact .inl ⟨rfl, rfl, .inl rfl⟩
  · exact .inl ⟨rfl, rfl, .inr rfl⟩
  · exact .inr ⟨hi, .ok, responseCode_operation i s, by rw [(operation_frame hi).halt]; exact (Bool.or_false _).symm⟩
  · exact .inr ⟨hi, c, rfl, rfl⟩

theorem Status.halting_iff {c : Status} : c.halting = true ↔ c.code = 4 ∨ c.code = 6 ∨ c.code = 9 := by
  rw [Status.halting_eq, Bool.or_eq_true, Bool.or_eq_true, beq_iff_eq, beq_iff_eq, beq_iff_eq, or_assoc]

/-- Settles O13, by what a command answers and what it does to `HALT`. -/
theorem haltLatch : Obligations.HaltLatch := by
  unfold Obligations.HaltLatch
  refine ⟨rfl, fun i s t h => ?_, fun s rest hport => ⟨_, step_of_port_reset hport, rfl⟩⟩
  have refused (hh : s.halt = true) (hi : runsHalted i = false) := exec_of_halted hh hi h
  obtain ⟨rfl, ht, hr⟩ | ⟨hi, c, hr, ht⟩ := exec_halt_answer h
  · refine ⟨?_, fun _ h1 => ?_, refused, fun _ _ => rfl, fun _ => ht⟩
    · rcases hr with hr | hr <;> rw [hr] <;> exact fun h => absurd h (by decide)
    · exact absurd (h1.symm.trans ht) (by decide)
  · rw [hr, ht]
    simp only [Option.some.injEq, ← Status.halting_iff]
    refine ⟨fun hc => by rw [hc, Bool.or_true], fun h0 h1 => by simpa [h0] using h1, refused, fun h1 h0 => ?_,
      fun h => absurd h hi⟩
    simp [h1] at h0

end Sys2Proof.Machine

namespace Sys2Proof.Exceptions

open Sys2Proof.Machine

/-- Settles O10: the codes of the checks are those of the table. -/
theorem allowedCodes : Obligations.AllowedCodes := by
  unfold Obligations.AllowedCodes
  refine ⟨fun _ _ _ => responseCode_mem_allowedCodes, fun s t ws rest e hport he h => ?_⟩
  cases h.symm.trans (step_of_decode_error hport he)
  rfl

end Sys2Proof.Exceptions
end
